-- ==== Sys2Proof/Config.lean ====
section
/-! DEFINITION. The constants of this hardware (`00_scope.md` R6, R7, R8, R10). They never change; there is no
free value, because the spec leaves no value open after an operation that goes on (INVENTORY.md). -/

namespace Sys2Proof.Config

/-- `SAMPLE_RATE` (R6), samples per second. -/
def sampleRate : Nat := 40000

/-- `PHASE_MAX` (R6): 2^31 - 1. -/
def phaseMax : Nat := 0x7FFFFFFF

/-- `SAMPLE_DELTA` (R6, D7): floor division, 53687. -/
def sampleDelta : Nat := phaseMax / sampleRate

/-- `DUR_NUM` (R6): 53687000. -/
def durNum : Nat := sampleDelta * 1000

/-- `FREQ_MAX` (R8): the largest frequency whose `delta` fits 32 bits. -/
def freqMax : Nat := 80000

/-- `PH_SHIFT` (R7): 31 - 7. -/
def phShift : Nat := 24

/-- `OSC_SHIFT` (R7): 31 - 8. -/
def oscShift : Nat := 23

/-- `OUT_MAX` (R7): the top of the inclusive 0 to 127 output range. -/
def outMax : Nat := 127

/-- `TRI_MID` (R7): the midpoint the triangle folds around. -/
def triMid : Nat := 128

/-- `SLEW_SHIFT` (R7): the 7 fractional bits of the crossfade. -/
def slewShift : Nat := 7

/-- `ENV_ATTACK_MS` (R7): attack duration of the reset state. -/
def envAttackMs : Int := 5

/-- `ENV_DECAY_MS` (R7): decay duration of the reset state. -/
def envDecayMs : Int := 150

/-- `SSF_MAX` (`10_state.md` R23): 2^31 - 1, where the sample counter saturates. -/
def ssfMax : Int := 0x7FFFFFFF

end Sys2Proof.Config
end

