-- ==== Sys2Proof/Word.lean ====
section
/-! DEFINITION. The fixed-width words of the block (`00_scope.md` R8, R11; `30_encoding.md` R81). -/

namespace Sys2Proof

/-- A 40-bit operation word `OPW`, moved whole over the port (R81, R61); bit 0 is the least significant (R11). -/
abbrev OpWord := BitVec 40

/-- A 32-bit register, operand `ARG` or result `RES` (R8). -/
abbrev Word := BitVec 32

/-- An 8-bit unsigned register (R33, R34, R24, R37). -/
abbrev Octet := BitVec 8

/-- A 7-bit unsigned register or operand (R36, R85 form U7). -/
abbrev Septet := BitVec 7

/-- A 4-bit code: the `UNIT` or `OP` field of an operation word (R81). -/
abbrev Code := BitVec 4

end Sys2Proof
end

