-- ==== Sys2Proof/Syntax.lean ====
section
/-! DEFINITION. The 27 operations as syntax (`30_encoding.md` R82 to R85) and the ways a word can be reserved (R88). -/

namespace Sys2Proof

/-- The five units (R82). -/
inductive UnitId where
  | ph | osc | env | trig | slew
deriving DecidableEq, Repr

/-- The fourteen assigned `OP` codes (R83). -/
inductive OpName where
  | process | reset | setfreq | setdur | running | isatend | setloop
  | settype | setwidth | setamp | setattack | setdecay | set | setslew
deriving DecidableEq, Repr

/-- The operations of the block, one constructor per row of the table of R84. An operand is the register-width
pattern its form assembles from `ARG` (R85): `freq` unsigned, `ms` and `n` read as two's complement. -/
inductive Instr where
  | phProcess
  | phReset
  | phSetfreq (freq : Word)
  | phSetdur (ms : Word)
  | phRunning
  | phIsatend
  | phSetloop (b : Bool)
  | oscProcess
  | oscReset
  | oscSetfreq (freq : Word)
  | oscSetdur (ms : Word)
  | oscRunning
  | oscIsatend
  | oscSetloop (b : Bool)
  | oscSettype (t : Octet)
  | oscSetwidth (w : Octet)
  | envProcess
  | envReset
  | envSetattack (ms : Word)
  | envSetdecay (ms : Word)
  | trigProcess
  | trigReset
  | trigSetwidth (n : Word)
  | trigSetamp (a : Septet)
  | slewProcess
  | slewSet (x : Septet)
  | slewSetslew (ms : Word)
deriving DecidableEq, Repr

/-- The unit an operation addresses (R84). -/
def Instr.unit : Instr → UnitId
  | .phProcess | .phReset | .phSetfreq _ | .phSetdur _ | .phRunning | .phIsatend | .phSetloop _ => .ph
  | .oscProcess | .oscReset | .oscSetfreq _ | .oscSetdur _ | .oscRunning | .oscIsatend | .oscSetloop _ => .osc
  | .oscSettype _ | .oscSetwidth _ => .osc
  | .envProcess | .envReset | .envSetattack _ | .envSetdecay _ => .env
  | .trigProcess | .trigReset | .trigSetwidth _ | .trigSetamp _ => .trig
  | .slewProcess | .slewSet _ | .slewSetslew _ => .slew

/-- The kind of operation (R83, R84). -/
def Instr.op : Instr → OpName
  | .phProcess | .oscProcess | .envProcess | .trigProcess | .slewProcess => .process
  | .phReset | .oscReset | .envReset | .trigReset => .reset
  | .phSetfreq _ | .oscSetfreq _ => .setfreq
  | .phSetdur _ | .oscSetdur _ => .setdur
  | .phRunning | .oscRunning => .running
  | .phIsatend | .oscIsatend => .isatend
  | .phSetloop _ | .oscSetloop _ => .setloop
  | .oscSettype _ => .settype
  | .oscSetwidth _ | .trigSetwidth _ => .setwidth
  | .trigSetamp _ => .setamp
  | .envSetattack _ => .setattack
  | .envSetdecay _ => .setdecay
  | .slewSet _ => .set
  | .slewSetslew _ => .setslew

/-- Why a word is reserved, one name per ground of R88: `UNIT` 5 to 15, `OP` 14 or 15, a (`UNIT`, `OP`) pair
that is not in the table, an `ARG` outside the legal values of the operand form. -/
inductive Reserved where
  | unit | op | pair | operand
deriving DecidableEq, Repr

end Sys2Proof
end

