-- ==== Sys2Proof/WellFormed.lean ====
section
/-! DEFINITION. Which terms of `Instr` are operations of the block: the range condition of R84 and R85. Every other
limit of an operand form is the width of the constructor's operand. -/

namespace Sys2Proof

/-- FREQ form: `0 <= freq <= 80000`, unsigned hertz (R85, R8, D8). -/
def freqLegal (freq : Word) : Bool := decide (freq.toNat ≤ Config.freqMax)

/-- An operation with a legal operand (R85). A term that fails it stands for no operation word that decodes. -/
def Instr.wellFormed : Instr → Bool
  | .phSetfreq freq | .oscSetfreq freq => freqLegal freq
  | .phProcess | .phReset | .phSetdur _ | .phRunning | .phIsatend | .phSetloop _ => true
  | .oscProcess | .oscReset | .oscSetdur _ | .oscRunning | .oscIsatend | .oscSetloop _ => true
  | .oscSettype _ | .oscSetwidth _ => true
  | .envProcess | .envReset | .envSetattack _ | .envSetdecay _ => true
  | .trigProcess | .trigReset | .trigSetwidth _ | .trigSetamp _ => true
  | .slewProcess | .slewSet _ | .slewSetslew _ => true

end Sys2Proof
end

