-- ==== Sys2Proof/Decode.lean ====
section
/-! DEFINITION. The decoder (`30_encoding.md` R81 to R91), total on 40-bit words and rejecting by name; after it the
encoder, written from the same table, and the mask-and-match table of R84. -/

namespace Sys2Proof

/-- What a word decodes to (R88): one of the 27 operations with its operand, or reserved, with the ground. -/
inductive Decoded where
  | ok (i : Instr)
  | reserved (why : Reserved)
deriving DecidableEq, Repr

/-- `OPW[39:36]` (R81). -/
def unitField (w : OpWord) : Code := w.extractLsb' 36 4

/-- `OPW[35:32]` (R81). -/
def opField (w : OpWord) : Code := w.extractLsb' 32 4

/-- `OPW[31:0]` (R81). -/
def argField (w : OpWord) : Word := w.extractLsb' 0 32

/-- The `UNIT` codes (R82). -/
def decodeUnit (c : Code) : Option UnitId :=
  match c.toNat with
  | 0 => some .ph
  | 1 => some .osc
  | 2 => some .env
  | 3 => some .trig
  | 4 => some .slew
  | _ => none

/-- The `OP` codes (R83). -/
def decodeOp (c : Code) : Option OpName :=
  match c.toNat with
  | 0 => some .process
  | 1 => some .reset
  | 2 => some .setfreq
  | 3 => some .setdur
  | 4 => some .running
  | 5 => some .isatend
  | 6 => some .setloop
  | 7 => some .settype
  | 8 => some .setwidth
  | 9 => some .setamp
  | 10 => some .setattack
  | 11 => some .setdecay
  | 12 => some .set
  | 13 => some .setslew
  | _ => none

/-- NONE form (R85): legal iff `ARG == 0`. -/
def formNone (arg : Word) (i : Instr) : Decoded :=
  if arg = 0 then .ok i else .reserved .operand

/-- FREQ form (R85): legal iff `ARG <= 80000`. -/
def formFreq (arg : Word) (mk : Word → Instr) : Decoded :=
  if freqLegal arg then .ok (mk arg) else .reserved .operand

/-- MS and S32 forms (R85): every 32-bit pattern is legal. -/
def formSigned (arg : Word) (mk : Word → Instr) : Decoded := .ok (mk arg)

/-- BOOL form (R85): legal iff `ARG[31:1] == 0`; the value is `ARG[0]`. -/
def formBool (arg : Word) (mk : Bool → Instr) : Decoded :=
  if arg.extractLsb' 1 31 = 0 then .ok (mk (arg.getLsbD 0)) else .reserved .operand

/-- U8 form (R85): legal iff `ARG[31:8] == 0`; the value is `ARG[7:0]`. -/
def formU8 (arg : Word) (mk : Octet → Instr) : Decoded :=
  if arg.extractLsb' 8 24 = 0 then .ok (mk (arg.extractLsb' 0 8)) else .reserved .operand

/-- U7 form (R85): legal iff `ARG[31:7] == 0`; the value is `ARG[6:0]`. -/
def formU7 (arg : Word) (mk : Septet → Instr) : Decoded :=
  if arg.extractLsb' 7 25 = 0 then .ok (mk (arg.extractLsb' 0 7)) else .reserved .operand

/-- The look-up of (`UNIT`, `OP`) in the table of R84, then the operand form (R91). A pair with no row is reserved. -/
def decodeRow (u : UnitId) (op : OpName) (arg : Word) : Decoded :=
  match u, op with
  | .ph, .process => formNone arg .phProcess
  | .ph, .reset => formNone arg .phReset
  | .ph, .setfreq => formFreq arg .phSetfreq
  | .ph, .setdur => formSigned arg .phSetdur
  | .ph, .running => formNone arg .phRunning
  | .ph, .isatend => formNone arg .phIsatend
  | .ph, .setloop => formBool arg .phSetloop
  | .osc, .process => formNone arg .oscProcess
  | .osc, .reset => formNone arg .oscReset
  | .osc, .setfreq => formFreq arg .oscSetfreq
  | .osc, .setdur => formSigned arg .oscSetdur
  | .osc, .running => formNone arg .oscRunning
  | .osc, .isatend => formNone arg .oscIsatend
  | .osc, .setloop => formBool arg .oscSetloop
  | .osc, .settype => formU8 arg .oscSettype
  | .osc, .setwidth => formU8 arg .oscSetwidth
  | .env, .process => formNone arg .envProcess
  | .env, .reset => formNone arg .envReset
  | .env, .setattack => formSigned arg .envSetattack
  | .env, .setdecay => formSigned arg .envSetdecay
  | .trig, .process => formNone arg .trigProcess
  | .trig, .reset => formNone arg .trigReset
  | .trig, .setwidth => formSigned arg .trigSetwidth
  | .trig, .setamp => formU7 arg .trigSetamp
  | .slew, .process => formNone arg .slewProcess
  | .slew, .set => formU7 arg .slewSet
  | .slew, .setslew => formSigned arg .slewSetslew
  | _, _ => .reserved .pair

/-- The decoding procedure of R91. A word reserved on several grounds is named by the first of: unit, op code, pair,
operand (log 5). -/
def decode (w : OpWord) : Decoded :=
  match decodeUnit (unitField w), decodeOp (opField w) with
  | none, _ => .reserved .unit
  | some _, none => .reserved .op
  | some u, some op => decodeRow u op (argField w)

/-- The instruction of a decoded word, if it is one. -/
def Decoded.instr? : Decoded → Option Instr
  | .ok i => some i
  | .reserved _ => none

/-! ## The encoder -/

/-- The code of a unit (R82). -/
def UnitId.code : UnitId → Code
  | .ph => 0
  | .osc => 1
  | .env => 2
  | .trig => 3
  | .slew => 4

/-- The code of an operation kind (R83). -/
def OpName.code : OpName → Code
  | .process => 0
  | .reset => 1
  | .setfreq => 2
  | .setdur => 3
  | .running => 4
  | .isatend => 5
  | .setloop => 6
  | .settype => 7
  | .setwidth => 8
  | .setamp => 9
  | .setattack => 10
  | .setdecay => 11
  | .set => 12
  | .setslew => 13

/-- `ARG`, the 32-bit pattern of the operand (R85, R91), zero where there is none. -/
def Instr.arg : Instr → Word
  | .phSetfreq v | .phSetdur v | .oscSetfreq v | .oscSetdur v => v
  | .envSetattack v | .envSetdecay v | .trigSetwidth v | .slewSetslew v => v
  | .phSetloop b | .oscSetloop b => if b then 1 else 0
  | .oscSettype v | .oscSetwidth v => v.setWidth 32
  | .trigSetamp v | .slewSet v => v.setWidth 32
  | .phProcess | .phReset | .phRunning | .phIsatend => 0
  | .oscProcess | .oscReset | .oscRunning | .oscIsatend => 0
  | .envProcess | .envReset | .trigProcess | .trigReset | .slewProcess => 0

/-- `{UNIT, OP, ARG}` (R81). -/
def packWord (u op : Code) (arg : Word) : OpWord := (u ++ op) ++ arg

/-- The word of an operation (R91): `w = {UNIT, OP, ARG}`. -/
def encode (i : Instr) : OpWord := packWord i.unit.code i.op.code i.arg

/-! ## The table of R84 as masks -/

/-- A row of the table of R84: `w` encodes the operation iff `w & mask = match` and the range condition holds. -/
structure OpRow where
  unit : UnitId
  op : OpName
  matchBits : OpWord
  mask : OpWord
  argMax : Option Nat
deriving DecidableEq, Repr

/-- The rows of unit `PH` (R84). -/
def phRows : List OpRow :=
  [⟨.ph, .process, 0x0000000000, 0xFFFFFFFFFF, none⟩, ⟨.ph, .reset, 0x0100000000, 0xFFFFFFFFFF, none⟩,
   ⟨.ph, .setfreq, 0x0200000000, 0xFF00000000, some 80000⟩, ⟨.ph, .setdur, 0x0300000000, 0xFF00000000, none⟩,
   ⟨.ph, .running, 0x0400000000, 0xFFFFFFFFFF, none⟩, ⟨.ph, .isatend, 0x0500000000, 0xFFFFFFFFFF, none⟩,
   ⟨.ph, .setloop, 0x0600000000, 0xFFFFFFFFFE, none⟩]

/-- The rows of unit `OSC` (R84). -/
def oscRows : List OpRow :=
  [⟨.osc, .process, 0x1000000000, 0xFFFFFFFFFF, none⟩, ⟨.osc, .reset, 0x1100000000, 0xFFFFFFFFFF, none⟩,
   ⟨.osc, .setfreq, 0x1200000000, 0xFF00000000, some 80000⟩, ⟨.osc, .setdur, 0x1300000000, 0xFF00000000, none⟩,
   ⟨.osc, .running, 0x1400000000, 0xFFFFFFFFFF, none⟩, ⟨.osc, .isatend, 0x1500000000, 0xFFFFFFFFFF, none⟩,
   ⟨.osc, .setloop, 0x1600000000, 0xFFFFFFFFFE, none⟩, ⟨.osc, .settype, 0x1700000000, 0xFFFFFFFF00, none⟩,
   ⟨.osc, .setwidth, 0x1800000000, 0xFFFFFFFF00, none⟩]

/-- The rows of units `ENV`, `TRIG` and `SLEW` (R84). -/
def compositeRows : List OpRow :=
  [⟨.env, .process, 0x2000000000, 0xFFFFFFFFFF, none⟩, ⟨.env, .reset, 0x2100000000, 0xFFFFFFFFFF, none⟩,
   ⟨.env, .setattack, 0x2A00000000, 0xFF00000000, none⟩, ⟨.env, .setdecay, 0x2B00000000, 0xFF00000000, none⟩,
   ⟨.trig, .process, 0x3000000000, 0xFFFFFFFFFF, none⟩, ⟨.trig, .reset, 0x3100000000, 0xFFFFFFFFFF, none⟩,
   ⟨.trig, .setwidth, 0x3800000000, 0xFF00000000, none⟩, ⟨.trig, .setamp, 0x3900000000, 0xFFFFFFFF80, none⟩,
   ⟨.slew, .process, 0x4000000000, 0xFFFFFFFFFF, none⟩, ⟨.slew, .set, 0x4C00000000, 0xFFFFFFFF80, none⟩,
   ⟨.slew, .setslew, 0x4D00000000, 0xFF00000000, none⟩]

/-- The table of R84, its 27 rows in its order. -/
def opTable : List OpRow := phRows ++ oscRows ++ compositeRows

/-- The matching rule of R84. -/
def OpRow.accepts (r : OpRow) (w : OpWord) : Bool :=
  w &&& r.mask == r.matchBits && (match r.argMax with
    | none => true
    | some m => decide ((argField w).toNat ≤ m))

/-! ## The host's numbering of an instruction's bits -/

/-- The operation word whose bits are `w` below `nbits` and zero above. An operation is one 40-bit word and is moved
whole (R61, R81), so the host's numbering is R11's (log 9). -/
def tableWord (nbits w : Nat) : OpWord := BitVec.ofNat 40 (w % 2 ^ nbits)

/-- The instruction the decoder reads from a table word. -/
def decodeTableWord (nbits w : Nat) : Option Instr := (decode (tableWord nbits w)).instr?

end Sys2Proof
end

