-- ==== Sys2Proof/Machine/State.lean ====
section
/-! DEFINITION. The state of the block (`10_state.md` R20 to R38), its reset value (R47), and the outcomes that are not
a next state (`60_exceptions.md` R207). -/

namespace Sys2Proof.Machine

/-- Faults: NONE. The hardware has no fault outcome (R200, R204, R207), so this type has no constructor and no
operation can answer `fault`. Safe: there is nothing it could hide. -/
inductive Fault
deriving DecidableEq, Repr

/-- Refusals: the situations the spec gives no meaning (R16, R207). -/
inductive Refusal where
  /-- Raised by an arm of `exec` whose instruction has no meaning yet. No arm raises it now. Safe: the model stops. -/
  | notModelled (mnemonic : String)
  /-- Raised by `step` on a reserved operation word, and by a meaning given a term that is not well-formed (R88; U2,
  U3). Safe: the spec gives such a word neither an error report nor an effect, and the model stops. -/
  | reserved (why : Reserved)
  /-- Raised by `PH.PROCESS` looping when one subtraction leaves the phase above `PHASE_MAX` (R114; U1, D11). Safe:
  the spec gives no next state, and the model stops. -/
  | phOverwrap
  /-- Raised by `step` when hardware reset is asserted while an operation word is presented (R230; U4). Safe: the spec
  gives no effect, and the model stops. -/
  | resetDuringOperation
deriving DecidableEq, Repr

/-- What the driver does at the block's interface (R80, R230), MODEL's own (log 1): it presents an operation word, it
asserts hardware reset between operations, or it asserts reset under a word it is presenting. -/
inductive PortEvent where
  | opw (w : OpWord)
  | hwReset
  | opwUnderReset (w : OpWord)
deriving DecidableEq, Repr

/-- A phasor-type group of fields (R13, R21, R31): the accumulator and its increment per tick. -/
structure Phasor where
  phase : Word
  delta : Word
deriving DecidableEq, Repr

/-- The `PH` unit: `PH.phase`, `PH.delta`, `PH.loop` (R20, R32). -/
structure PhUnit extends Phasor where
  loop : Bool
deriving DecidableEq, Repr

/-- The `OSC` unit: a phasor with its loop flag, `OSC.type` (R33) and `OSC.width` (R34). -/
structure OscUnit extends Phasor where
  loop : Bool
  type : Octet
  width : Octet
deriving DecidableEq, Repr

/-- The `ENV` unit: two phasors, hardwired one-shot, so with no loop flag (R38, R150). -/
structure EnvUnit where
  attack : Phasor
  decay : Phasor
deriving DecidableEq, Repr

/-- The `TRIG` unit: `TRIG.ssf` and `TRIG.width` read as two's complement (R23, R35), `TRIG.amp` (R36). -/
structure TrigUnit where
  ssf : Word
  width : Word
  amp : Septet
deriving DecidableEq, Repr

/-- The `SLEW` unit: a phasor, hardwired one-shot (R38), and the levels `SLEW.from`, `SLEW.to` (R37) and
`SLEW.lastVal` (R24). -/
structure SlewUnit where
  ph : Phasor
  fromLevel : Octet
  toLevel : Octet
  lastVal : Octet
deriving DecidableEq, Repr

/-- The 20 fields of R20 in their five units, and two fields of the MODEL's own for the operation port of R80: the
result of the last transaction, absent where the operation returned none (R87; log 3), and the driver's pending events,
oldest first (log 1). -/
structure State where
  ph : PhUnit
  osc : OscUnit
  env : EnvUnit
  trig : TrigUnit
  slew : SlewUnit
  res : Option Word
  port : List PortEvent
deriving DecidableEq, Repr

/-- The state right after hardware reset (R47, R230): every field at the value of R47's table; no result, no event. -/
def State.reset : State where
  ph := { phase := 0, delta := 0, loop := false }
  osc := { phase := 0, delta := 0, loop := false, type := 0, width := 0 }
  env := { attack := { phase := 0, delta := 0x00A3D6F8 }, decay := { phase := 0, delta := 0x00057619 } }
  trig := { ssf := 0x7FFFFFFF, width := 0, amp := 0 }
  slew := { ph := { phase := 0, delta := 0 }, fromLevel := 0, toLevel := 0, lastVal := 0 }
  res := none
  port := []

/-- What an operation answers. -/
abbrev Result := Host.Outcome State Fault Refusal

end Sys2Proof.Machine
end

