-- ==== Sys2Proof/Machine/Operands.lean ====
section
/-! DEFINITION. The value an operation's rule uses, from the operand the decoder assembled (`30_encoding.md` R85, R86;
`00_scope.md` R12): zero extension for FREQ, BOOL, U8 and U7, two's complement for MS and S32 (R196). -/

namespace Sys2Proof.Machine

/-- FREQ form: `freq = ARG`, unsigned, in hertz. -/
def freqValue (arg : Word) : Nat := arg.toNat

/-- MS form: `ms = sext_32(ARG)`, in milliseconds. -/
def msValue (arg : Word) : Int := arg.toInt

/-- S32 form and the signed registers of `TRIG`: `n = sext_32(ARG)`. -/
def signedValue (arg : Word) : Int := arg.toInt

/-- U8 form: the 8-bit register receives the operand itself. -/
def octetValue (v : Octet) : Octet := v

/-- U7 form written to an 8-bit level register: `zext_8` (R12). -/
def levelValue (v : Septet) : Octet := v.setWidth 8

/-- The 32-bit two's-complement result port's pattern of an integer (R87). -/
def resPattern (v : Int) : Word := BitVec.ofInt 32 v

end Sys2Proof.Machine
end

