-- ==== Sys2Proof/Machine/Flags.lean ====
section
/-! DEFINITION. The block has no status flags (`10_state.md` R29). Here are the predicates the spec derives from the
state and does not store (R30, R45; `42_env.md` R151). -/

namespace Sys2Proof.Machine

/-- `Running(P) = (P.delta > 0)` (R30). -/
def running (p : Phasor) : Bool := decide (0 < p.delta.toNat)

/-- `IsAtEnd(P) = (P.phase >= PHASE_MAX)` (R30). -/
def isAtEnd (p : Phasor) : Bool := decide (Config.phaseMax ≤ p.phase.toNat)

/-- Stopped: `delta == 0` (R31, R182). -/
def stopped (p : Phasor) : Bool := decide (p.delta.toNat = 0)

/-- Firing: `ssf < width`, a signed comparison (R45, R166). -/
def firing (t : TrigUnit) : Bool := decide (signedValue t.ssf < signedValue t.width)

/-- A predicate as a result: 1 for true and 0 for false (R87). -/
def predicateValue (b : Bool) : Int := if b then 1 else 0

/-- The three states of the envelope (R151). -/
inductive EnvPhase where
  | attacking | decaying | idle
deriving DecidableEq, Repr

/-- The envelope's state as a function of the two phases (R151). -/
def envPhase (e : EnvUnit) : EnvPhase :=
  if isAtEnd e.attack then (if isAtEnd e.decay then .idle else .decaying) else .attacking

end Sys2Proof.Machine
end

