-- ==== Sys2Proof/Machine/Ops.lean ====
section
/-! DEFINITION. The named operations every meaning is written with: the phasor helpers of `40_phasor.md` R110 to R115,
the Osc helpers of `41_osc.md` R130 to R132, the crossfade of `44_slew.md` R181, the unit updates, and how an operation
ends. Values are computed over the integers and narrowed when written (`00_scope.md` R12). Taking an exception and
returning from one do not exist for this hardware (R200, R204, R205). -/

namespace Sys2Proof.Machine

/-! ## Writing the state -/

/-- Write a phase. -/
def Phasor.setPhase (p : Phasor) (v : Word) : Phasor := { p with phase := v }

/-- Write an increment. -/
def Phasor.setDelta (p : Phasor) (v : Word) : Phasor := { p with delta := v }

/-- Write the phasor of `PH`. -/
def PhUnit.setPhasor (u : PhUnit) (p : Phasor) : PhUnit := { u with toPhasor := p }

/-- Write the phasor of `OSC`. -/
def OscUnit.setPhasor (u : OscUnit) (p : Phasor) : OscUnit := { u with toPhasor := p }

/-- Write the `PH` unit. -/
def State.setPh (s : State) (u : PhUnit) : State := { s with ph := u }

/-- Write the `OSC` unit. -/
def State.setOsc (s : State) (u : OscUnit) : State := { s with osc := u }

/-- Write the `ENV` unit. -/
def State.setEnv (s : State) (u : EnvUnit) : State := { s with env := u }

/-- Write the `TRIG` unit. -/
def State.setTrig (s : State) (u : TrigUnit) : State := { s with trig := u }

/-- Write the `SLEW` unit. -/
def State.setSlew (s : State) (u : SlewUnit) : State := { s with slew := u }

/-- Write the result port. -/
def State.setRes (s : State) (r : Option Word) : State := { s with res := r }

/-- Write the driver's pending events. -/
def State.setPort (s : State) (es : List PortEvent) : State := { s with port := es }

/-! ## How an operation ends (R14, R87) -/

/-- An operation that returns none: the result port carries no value (R87, U5). -/
def returnNone (s : State) : Result := .next (s.setRes none)

/-- An operation that returns a value or a predicate: `RES = v` (R14, R87). -/
def returnValue (s : State) (v : Int) : Result := .next (s.setRes (some (resPattern v)))

/-- A term whose operand is outside its form's legal values (R88, U3). -/
def refuseOperand : Result := .refused (.reserved .operand)

/-! ## Rate conversions -/

/-- `FreqToDelta(freq) = SAMPLE_DELTA * freq` (R111). -/
def freqToDelta (freq : Nat) : Nat := Config.sampleDelta * freq

/-- `DurToDelta(ms) = if ms < 1 then 0 else DUR_NUM / ms` (R112); the test comes before the division (R202). -/
def durToDelta (ms : Int) : Nat := if ms < 1 then 0 else Config.durNum / ms.toNat

/-- The `delta` pattern a frequency writes. -/
def freqDelta (freq : Word) : Word := BitVec.ofNat 32 (freqToDelta (freqValue freq))

/-- The `delta` pattern a duration writes. -/
def durDelta (ms : Word) : Word := BitVec.ofNat 32 (durToDelta (msValue ms))

/-! ## The phasor -/

/-- `PhasorOut(P) = P.phase >> 24` (R110). -/
def phasorOut (p : Phasor) : Nat := p.phase.toNat >>> Config.phShift

/-- `OscOut(P) = P.phase >> 23` (R130). -/
def oscOut (p : Phasor) : Nat := p.phase.toNat >>> Config.oscShift

/-- The exact 33-bit sum `phase + delta` (R113, D10). -/
def tickSum (p : Phasor) : Nat := p.phase.toNat + p.delta.toNat

/-- The single subtraction `sum - PHASE_MAX` of `PH`'s wrap (R114), used with `sum >= PHASE_MAX`. -/
def phWrap (sum : Nat) : Nat := sum - Config.phaseMax

/-- At most `fuel` turns of `while sum >= PHASE_MAX do sum = sum - PHASE_MAX` (R131). -/
def oscWrapLoop : Nat → Nat → Nat
  | 0, sum => sum
  | fuel + 1, sum => if Config.phaseMax ≤ sum then oscWrapLoop fuel (sum - Config.phaseMax) else sum

/-- `OscWrap(sum)` (R131). R131 bounds the turns by 3 for a phase that meets R22; the fuel is 4, the most any pair of
32-bit patterns needs, so the loop always ends with `sum < PHASE_MAX` (log 11). -/
def oscWrap (sum : Nat) : Nat := oscWrapLoop 4 sum

/-- The next phase of one tick (R113): below `PHASE_MAX` the sum; else clamp one-shot, or wrap looping. -/
def nextPhase (loop : Bool) (wrap : Nat → Nat) (sum : Nat) : Nat :=
  if sum < Config.phaseMax then sum
  else if loop then wrap sum
  else Config.phaseMax

/-- `Advance(P)` (R113): writes the phase only. -/
def advance (loop : Bool) (wrap : Nat → Nat) (p : Phasor) : Phasor :=
  p.setPhase (BitVec.ofNat 32 (nextPhase loop wrap (tickSum p)))

/-- `Advance(P)` of the embedded phasors, whose `P.loop` is the constant 0 (R38): the wrap of R114 is never evaluated
(R150, R180). -/
def advanceOneShot (p : Phasor) : Phasor := advance false phWrap p

/-- Whether R114 gives the tick of a `PH` phasor a meaning: not where it loops and the sum needs a wrap that leaves the
phase above `PHASE_MAX` (U1, D11). -/
def phTickSpecified (loop : Bool) (p : Phasor) : Bool :=
  !(loop && decide (Config.phaseMax ≤ tickSum p) && decide (Config.phaseMax < phWrap (tickSum p)))

/-- `Reset()` of a phasor (R118): phase 0, nothing else. -/
def resetPhase (p : Phasor) : Phasor := p.setPhase 0

/-! ## Shapes and levels -/

/-- `Shape(type, width, out)` (R132). -/
def shape (type width : Octet) (out : Nat) : Int :=
  if type.toNat = 2 then (if out < width.toNat then Config.outMax else 0)
  else if type.toNat = 1 then ((out : Int) - Config.triMid).natAbs
  else (out >>> 1 : Nat)

/-- `Lerp(from, to, i)` (R181): each product is shifted separately, then the two are added. Outside the
levels of R8 the shift is a floor (log 7). -/
def lerp (fromV toV i : Int) : Int :=
  ((fromV * (Config.outMax - i)) >>> Config.slewShift) + ((toV * i) >>> Config.slewShift)

/-- The saturating increment of the sample counter (R166, D19). -/
def ssfTick (ssf : Int) : Int := if ssf = Config.ssfMax then Config.ssfMax else ssf + 1

end Sys2Proof.Machine
end

