-- ==== Sys2Proof/Machine/Env.lean ====
section
/-! DEFINITION. The four operations of the `ENV` unit (`42_env.md` R152 to R155). -/

namespace Sys2Proof.Machine

/-- `ENV.PROCESS` (R152, C7, D16): while the attack is not at end, the attack phasor is processed and `decayOut` is 127;
from then on `attackOut` is 127 and the decay phasor is processed. Exactly one of the two phasors advances. -/
def execEnvProcess (s : State) : Result :=
  if isAtEnd s.env.attack then
    let decayOut : Int := Config.outMax - phasorOut s.env.decay
    returnValue (s.setEnv { s.env with decay := advanceOneShot s.env.decay }) (min Config.outMax decayOut)
  else
    let attackOut : Int := phasorOut s.env.attack
    returnValue (s.setEnv { s.env with attack := advanceOneShot s.env.attack }) (min attackOut Config.outMax)

/-- `ENV.RESET` (R153): both phases 0, neither increment touched. -/
def execEnvReset (s : State) : Result :=
  returnNone (s.setEnv { attack := resetPhase s.env.attack, decay := resetPhase s.env.decay })

/-- `ENV.SETATTACK ms` (R154). -/
def execEnvSetattack (ms : Word) (s : State) : Result :=
  returnNone (s.setEnv { s.env with attack := s.env.attack.setDelta (durDelta ms) })

/-- `ENV.SETDECAY ms` (R155). -/
def execEnvSetdecay (ms : Word) (s : State) : Result :=
  returnNone (s.setEnv { s.env with decay := s.env.decay.setDelta (durDelta ms) })

end Sys2Proof.Machine
end

