-- ==== Sys2Proof/Machine/Osc.lean ====
section
/-! DEFINITION. The nine operations of the `OSC` unit (`41_osc.md` R133 to R141). -/

namespace Sys2Proof.Machine

/-- `OSC.PROCESS` (R133): the shaped value of the phase before the advance, then the advance with the multi-wrap loop,
which is never UNSPECIFIED (R131). -/
def execOscProcess (s : State) : Result :=
  returnValue (s.setOsc (s.osc.setPhasor (advance s.osc.loop oscWrap s.osc.toPhasor)))
    (shape s.osc.type s.osc.width (oscOut s.osc.toPhasor))

/-- `OSC.RESET` (R134). -/
def execOscReset (s : State) : Result :=
  returnNone (s.setOsc (s.osc.setPhasor (resetPhase s.osc.toPhasor)))

/-- `OSC.SETFREQ freq` (R137). An operand above 80000 is reserved (R88; log 8). -/
def execOscSetfreq (freq : Word) (s : State) : Result :=
  if freqLegal freq then returnNone (s.setOsc (s.osc.setPhasor (s.osc.toPhasor.setDelta (freqDelta freq))))
  else refuseOperand

/-- `OSC.SETDUR ms` (R138). -/
def execOscSetdur (ms : Word) (s : State) : Result :=
  returnNone (s.setOsc (s.osc.setPhasor (s.osc.toPhasor.setDelta (durDelta ms))))

/-- `OSC.RUNNING` (R135). -/
def execOscRunning (s : State) : Result := returnValue s (predicateValue (running s.osc.toPhasor))

/-- `OSC.ISATEND` (R136). -/
def execOscIsatend (s : State) : Result := returnValue s (predicateValue (isAtEnd s.osc.toPhasor))

/-- `OSC.SETLOOP b` (R139). -/
def execOscSetloop (b : Bool) (s : State) : Result := returnNone (s.setOsc { s.osc with loop := b })

/-- `OSC.SETTYPE t` (R140). -/
def execOscSettype (t : Octet) (s : State) : Result := returnNone (s.setOsc { s.osc with type := octetValue t })

/-- `OSC.SETWIDTH w` (R141). -/
def execOscSetwidth (w : Octet) (s : State) : Result := returnNone (s.setOsc { s.osc with width := octetValue w })

end Sys2Proof.Machine
end

