-- ==== Sys2Proof/Machine/Ph.lean ====
section
/-! DEFINITION. The seven operations of the `PH` unit (`40_phasor.md` R117 to R123). -/

namespace Sys2Proof.Machine

/-- `PH.PROCESS` (R115, R117): the value of the phase before the advance, then the advance with the single-subtraction
wrap. UNSPECIFIED, so refused, where that wrap leaves the phase above `PHASE_MAX` (R114; U1, D11; log 4). -/
def execPhProcess (s : State) : Result :=
  if phTickSpecified s.ph.loop s.ph.toPhasor then
    returnValue (s.setPh (s.ph.setPhasor (advance s.ph.loop phWrap s.ph.toPhasor))) (phasorOut s.ph.toPhasor)
  else .refused .phOverwrap

/-- `PH.RESET` (R118). -/
def execPhReset (s : State) : Result :=
  returnNone (s.setPh (s.ph.setPhasor (resetPhase s.ph.toPhasor)))

/-- `PH.SETFREQ freq` (R121). An operand above 80000 is reserved (R88; log 8). -/
def execPhSetfreq (freq : Word) (s : State) : Result :=
  if freqLegal freq then returnNone (s.setPh (s.ph.setPhasor (s.ph.toPhasor.setDelta (freqDelta freq))))
  else refuseOperand

/-- `PH.SETDUR ms` (R122). -/
def execPhSetdur (ms : Word) (s : State) : Result :=
  returnNone (s.setPh (s.ph.setPhasor (s.ph.toPhasor.setDelta (durDelta ms))))

/-- `PH.RUNNING` (R119). -/
def execPhRunning (s : State) : Result := returnValue s (predicateValue (running s.ph.toPhasor))

/-- `PH.ISATEND` (R120). -/
def execPhIsatend (s : State) : Result := returnValue s (predicateValue (isAtEnd s.ph.toPhasor))

/-- `PH.SETLOOP b` (R123). -/
def execPhSetloop (b : Bool) (s : State) : Result := returnNone (s.setPh { s.ph with loop := b })

end Sys2Proof.Machine
end

