-- ==== Sys2Proof/Machine/Slew.lean ====
section
/-! DEFINITION. The three operations of the `SLEW` unit (`44_slew.md` R182 to R184). -/

namespace Sys2Proof.Machine

/-- The value of `SLEW.PROCESS` (R182): the target when stopped, else the crossfade at the ramp value read before the
advance. -/
def slewValue (u : SlewUnit) : Int :=
  if stopped u.ph then u.toLevel.toNat else lerp u.fromLevel.toNat u.toLevel.toNat (phasorOut u.ph)

/-- `SLEW.PROCESS` (R182, D21, D22): the phasor is processed, stopped or not, and `lastVal` follows the output. -/
def execSlewProcess (s : State) : Result :=
  let v := slewValue s.slew
  returnValue (s.setSlew { s.slew with ph := advanceOneShot s.slew.ph, lastVal := BitVec.ofInt 8 v }) v

/-- `SLEW.SET x` (R183): `from` takes the value `lastVal` had, `to` takes `x`, the ramp restarts. -/
def execSlewSet (x : Septet) (s : State) : Result :=
  returnNone (s.setSlew
    { s.slew with fromLevel := s.slew.lastVal, toLevel := levelValue x, ph := resetPhase s.slew.ph })

/-- `SLEW.SETSLEW ms` (R184): the slew time; the ramp is not restarted. -/
def execSlewSetslew (ms : Word) (s : State) : Result :=
  returnNone (s.setSlew { s.slew with ph := s.slew.ph.setDelta (durDelta ms) })

end Sys2Proof.Machine
end

