-- ==== Sys2Proof/Machine/Trig.lean ====
section
/-! DEFINITION. The four operations of the `TRIG` unit (`43_triggen.md` R166 to R169). -/

namespace Sys2Proof.Machine

/-- `TRIG.PROCESS` (R166): the counter is incremented, saturating, and the incremented value is compared with the width,
signed. -/
def execTrigProcess (s : State) : Result :=
  let t : TrigUnit := { s.trig with ssf := BitVec.ofInt 32 (ssfTick (signedValue s.trig.ssf)) }
  returnValue (s.setTrig t) (if firing t then (t.amp.toNat : Int) else 0)

/-- `TRIG.RESET`, also spelled `TRIG.FIRE` (R167): `ssf <- -1`, so that the next `TRIG.PROCESS` begins the pulse. -/
def execTrigReset (s : State) : Result :=
  returnNone (s.setTrig { s.trig with ssf := BitVec.ofInt 32 (-1) })

/-- `TRIG.SETWIDTH n` (R168). -/
def execTrigSetwidth (n : Word) (s : State) : Result := returnNone (s.setTrig { s.trig with width := n })

/-- `TRIG.SETAMP a` (R169). -/
def execTrigSetamp (a : Septet) (s : State) : Result := returnNone (s.setTrig { s.trig with amp := a })

end Sys2Proof.Machine
end

