-- ==== Sys2Proof/Machine/Dispatch.lean ====
section
/-! DEFINITION. One arm per operation of the table of R84, each a direct call of its meaning. -/

namespace Sys2Proof.Machine

def exec (i : Instr) (s : State) : Host.Outcome State Fault Refusal :=
  match i with
  | .phProcess => Sys2Proof.Machine.execPhProcess s
  | .phReset => Sys2Proof.Machine.execPhReset s
  | .phSetfreq freq => Sys2Proof.Machine.execPhSetfreq freq s
  | .phSetdur ms => Sys2Proof.Machine.execPhSetdur ms s
  | .phRunning => Sys2Proof.Machine.execPhRunning s
  | .phIsatend => Sys2Proof.Machine.execPhIsatend s
  | .phSetloop b => Sys2Proof.Machine.execPhSetloop b s
  | .oscProcess => Sys2Proof.Machine.execOscProcess s
  | .oscReset => Sys2Proof.Machine.execOscReset s
  | .oscSetfreq freq => Sys2Proof.Machine.execOscSetfreq freq s
  | .oscSetdur ms => Sys2Proof.Machine.execOscSetdur ms s
  | .oscRunning => Sys2Proof.Machine.execOscRunning s
  | .oscIsatend => Sys2Proof.Machine.execOscIsatend s
  | .oscSetloop b => Sys2Proof.Machine.execOscSetloop b s
  | .oscSettype t => Sys2Proof.Machine.execOscSettype t s
  | .oscSetwidth w => Sys2Proof.Machine.execOscSetwidth w s
  | .envProcess => Sys2Proof.Machine.execEnvProcess s
  | .envReset => Sys2Proof.Machine.execEnvReset s
  | .envSetattack ms => Sys2Proof.Machine.execEnvSetattack ms s
  | .envSetdecay ms => Sys2Proof.Machine.execEnvSetdecay ms s
  | .trigProcess => Sys2Proof.Machine.execTrigProcess s
  | .trigReset => Sys2Proof.Machine.execTrigReset s
  | .trigSetwidth n => Sys2Proof.Machine.execTrigSetwidth n s
  | .trigSetamp a => Sys2Proof.Machine.execTrigSetamp a s
  | .slewProcess => Sys2Proof.Machine.execSlewProcess s
  | .slewSet x => Sys2Proof.Machine.execSlewSet x s
  | .slewSetslew ms => Sys2Proof.Machine.execSlewSetslew ms s

end Sys2Proof.Machine
end

