-- ==== Sys2Proof/Machine/Port.lean ====
section
/-! DEFINITION. The operation port and the reset input (`30_encoding.md` R80, `20_memory.md` R64, R67,
`70_reset_and_hazards.md` R230): what one transaction does. -/

namespace Sys2Proof.Machine

/-- Hardware reset (R230): all 20 fields go to the values of R47 at once, and the result port carries no value. What the
driver has issued after it is untouched: reset is ordered with operations (log 10). -/
def hardwareReset (s : State) : State := State.reset.setPort s.port

/-- One operation word at the port: decode it and perform the operation, or refuse it by name (R80, R88, R91). -/
def performWord (w : OpWord) (s : State) : Result :=
  match decode w with
  | .ok i => exec i s
  | .reserved why => .refused (.reserved why)

/-- What one event at the interface does. -/
def performEvent (e : PortEvent) (s : State) : Result :=
  match e with
  | .opw w => performWord w s
  | .hwReset => .next (hardwareReset s)
  | .opwUnderReset _ => .refused .resetDuringOperation

/-- The oldest pending event, and the state with it taken from the port. -/
def takeEvent (s : State) : Option (PortEvent × State) :=
  match s.port with
  | [] => none
  | e :: es => some (e, s.setPort es)

/-- The state with an operation word presented as the next event. -/
def presentWord (w : OpWord) (s : State) : State := s.setPort (.opw w :: s.port)

end Sys2Proof.Machine
end

