-- ==== Sys2Proof/Machine/Step.lean ====
section
/-! DEFINITION. One step of the machine: one event at the operation port, or nothing where the driver issues none. -/

namespace Sys2Proof.Machine

/-- Operations take effect one at a time, in issue order, each complete before the next (R64, R67). With none issued the
state does not change (R67, R231; log 2). -/
def step (s : State) : Host.Outcome State Fault Refusal :=
  match takeEvent s with
  | none => .next s
  | some (e, s') => performEvent e s'

/-- `s` with the operation word whose bits are `w` presented at the port, so that the next step performs it (log 1). -/
def State.withFetchWord (s : State) (nbits w : Nat) : State := presentWord (tableWord nbits w) s

end Sys2Proof.Machine
end

