-- ==== Sys2Proof/Machine/Assembler.lean ====
section
/-! DEFINITION. The assembler notation of `30_encoding.md` R92 and its one pseudo-operation (R93): one line of text to an
operation word, and back, and a program of such lines. It has no part in `step`. -/

namespace Sys2Proof.Machine

/-- A unit's prefix (R82). -/
def unitText : UnitId → String
  | .ph => "PH"
  | .osc => "OSC"
  | .env => "ENV"
  | .trig => "TRIG"
  | .slew => "SLEW"

/-- An operation kind's name (R83). -/
def opText : OpName → String
  | .process => "PROCESS"
  | .reset => "RESET"
  | .setfreq => "SETFREQ"
  | .setdur => "SETDUR"
  | .running => "RUNNING"
  | .isatend => "ISATEND"
  | .setloop => "SETLOOP"
  | .settype => "SETTYPE"
  | .setwidth => "SETWIDTH"
  | .setamp => "SETAMP"
  | .setattack => "SETATTACK"
  | .setdecay => "SETDECAY"
  | .set => "SET"
  | .setslew => "SETSLEW"

/-- `UNIT.OP` (R92). -/
def opMnemonic (u : UnitId) (op : OpName) : String := unitText u ++ "." ++ opText op

/-- The row a mnemonic names; `TRIG.FIRE` is another spelling of `TRIG.RESET` (R93). -/
def rowNamed (name : List Char) : Option (UnitId × OpName) :=
  if name = "TRIG.FIRE".toList then some (.trig, .reset)
  else (opTable.find? fun r => decide ((opMnemonic r.unit r.op).toList = name)).map fun r => (r.unit, r.op)

/-- Whether an operation kind has an operand (R83, R85). -/
def takesOperand : OpName → Bool
  | .process | .reset | .running | .isatend => false
  | .setfreq | .setdur | .setloop | .settype | .setwidth => true
  | .setamp | .setattack | .setdecay | .set | .setslew => true

/-- A signed 32-bit value's pattern, `v mod 2^32` (R91). -/
def signedPattern (v : Int) : Option Word :=
  if -(2 ^ 31) ≤ v ∧ v < 2 ^ 31 then some (BitVec.ofInt 32 v) else none

/-- An unsigned value's pattern, at most `top`. -/
def boundedPattern (top : Nat) (v : Int) : Option Word :=
  if 0 ≤ v ∧ v ≤ top then some (BitVec.ofInt 32 v) else none

/-- `ARG` of an operand value, if the value is one of the operation's form (R85). -/
def operandPattern (u : UnitId) (op : OpName) (v : Int) : Option Word :=
  match op with
  | .setfreq => boundedPattern Config.freqMax v
  | .setdur | .setattack | .setdecay | .setslew => signedPattern v
  | .setloop => boundedPattern 1 v
  | .settype => boundedPattern 255 v
  | .setwidth => if u = .trig then signedPattern v else boundedPattern 255 v
  | .setamp | .set => boundedPattern 127 v
  | .process | .reset | .running | .isatend => none

/-- The value of a digit in a base up to 16. -/
def digitValue (base : Nat) (c : Char) : Option Nat :=
  let v := if '0' ≤ c ∧ c ≤ '9' then c.toNat - 48
    else if 'a' ≤ c ∧ c ≤ 'f' then c.toNat - 87
    else if 'A' ≤ c ∧ c ≤ 'F' then c.toNat - 55
    else 16
  if v < base then some v else none

/-- The digits of a numeral, most significant first, added to `acc`. -/
def digitsValue (base : Nat) : Nat → List Char → Option Nat
  | acc, [] => some acc
  | acc, c :: cs => match digitValue base c with
    | some d => digitsValue base (acc * base + d) cs
    | none => none

/-- An unsigned numeral with at least one digit: hexadecimal after `0x`, else decimal (R92). -/
def numeralValue : List Char → Option Nat
  | [] => none
  | ['0', 'x'] => none
  | '0' :: 'x' :: cs => digitsValue 16 0 cs
  | cs => digitsValue 10 0 cs

/-- An operand: a decimal integer, negative with a leading minus, or a hexadecimal integer (R92). R92 does not speak of a
minus before zero: DESIGN CHOICE, `-0` reads as 0, in the unsigned forms too (log 13). -/
def operandValue : List Char → Option Int
  | '-' :: '0' :: 'x' :: _ => none
  | '-' :: cs => (numeralValue cs).map fun n => -(n : Int)
  | cs => (numeralValue cs).map fun n => (n : Int)

/-- The words of a line, split at spaces, its comment left out (R92). -/
def lineWords : List Char → List Char → List (List Char)
  | cur, [] => if cur = [] then [] else [cur.reverse]
  | cur, c :: cs =>
    if c = ';' then (if cur = [] then [] else [cur.reverse])
    else if c = ' ' then (if cur = [] then lineWords [] cs else cur.reverse :: lineWords [] cs)
    else lineWords (c :: cur) cs

/-- The operation word of one line `UNIT.OP` or `UNIT.OP operand` (R92); `none` where the line is not one. -/
def assembleLine (line : String) : Option OpWord :=
  match lineWords [] line.toList with
  | [name] => match rowNamed name with
    | some (u, op) => if takesOperand op then none else some (packWord u.code op.code 0)
    | none => none
  | [name, operand] => match rowNamed name, operandValue operand with
    | some (u, op), some v => (operandPattern u op v).map fun arg => packWord u.code op.code arg
    | _, _ => none
  | _ => none

/-- The operation words of a program, a finite sequence of lines (R92). A line with no word on it, empty or a comment,
is no operation (log 13). -/
def assembleProgram : List String → Option (List OpWord)
  | [] => some []
  | line :: rest =>
    if lineWords [] line.toList = [] then assembleProgram rest
    else match assembleLine line, assembleProgram rest with
      | some w, some ws => some (w :: ws)
      | _, _ => none

/-- The operand an operation is written with, if its form has one (R85, R92). -/
def operandShown : Instr → Option Int
  | .phSetfreq v | .oscSetfreq v => some v.toNat
  | .phSetdur v | .oscSetdur v | .envSetattack v | .envSetdecay v | .slewSetslew v => some v.toInt
  | .trigSetwidth v => some v.toInt
  | .phSetloop b | .oscSetloop b => some (if b then 1 else 0)
  | .oscSettype v | .oscSetwidth v => some v.toNat
  | .trigSetamp v | .slewSet v => some v.toNat
  | .phProcess | .phReset | .phRunning | .phIsatend => none
  | .oscProcess | .oscReset | .oscRunning | .oscIsatend => none
  | .envProcess | .envReset | .trigProcess | .trigReset | .slewProcess => none

/-- The line an operation is written as (R92). -/
def renderLine (i : Instr) : String :=
  match operandShown i with
  | none => opMnemonic i.unit i.op
  | some v => opMnemonic i.unit i.op ++ " " ++ toString v

end Sys2Proof.Machine
end

