-- ==== Sys2Proof/Safety.lean ====
section
/-! DEFINITION. What claims are stated in: the invariants of a run (`10_state.md` R22 to R24, R37, R46; `42_env.md`
R151), what lies outside one unit (R20), sequences of operations (`20_memory.md` R67), the classes of R63, and the
driver that keeps R244. -/

namespace Sys2Proof.Machine

/-! ## Invariants -/

/-- The legal values of the data-path fields: every phase at most `PHASE_MAX` (R22), every level at most 127 (R24, R37),
the sample counter at least -1 (R23). -/
structure State.InRange (s : State) : Prop where
  phPhase : s.ph.phase.toNat ≤ Config.phaseMax
  oscPhase : s.osc.phase.toNat ≤ Config.phaseMax
  attackPhase : s.env.attack.phase.toNat ≤ Config.phaseMax
  decayPhase : s.env.decay.phase.toNat ≤ Config.phaseMax
  slewPhase : s.slew.ph.phase.toNat ≤ Config.phaseMax
  fromLevel : s.slew.fromLevel.toNat ≤ 127
  toLevel : s.slew.toLevel.toNat ≤ 127
  lastVal : s.slew.lastVal.toNat ≤ 127
  ssf : -1 ≤ s.trig.ssf.toInt

/-- An increment a duration can write (R46): 0, or `53687000 / m` for some `m >= 1`. -/
def IsDurDelta (d : Word) : Prop := d.toNat = 0 ∨ ∃ m : Nat, 1 ≤ m ∧ d.toNat = 53687000 / m

/-- An increment a frequency can write (R46): `53687 * f` for some `f <= 80000`. -/
def IsFreqDelta (d : Word) : Prop := ∃ f : Nat, f ≤ 80000 ∧ d.toNat = 53687 * f

/-- The reachable increments (R46). -/
structure State.DeltasReachable (s : State) : Prop where
  ph : IsFreqDelta s.ph.delta ∨ IsDurDelta s.ph.delta
  osc : IsFreqDelta s.osc.delta ∨ IsDurDelta s.osc.delta
  attack : IsDurDelta s.env.attack.delta
  decay : IsDurDelta s.env.decay.delta
  slew : IsDurDelta s.slew.ph.delta

/-- The decay phasor has not left 0 while the attack is not at end (R151's unreachable states excluded). -/
def State.DecayHeld (s : State) : Prop :=
  s.env.attack.phase.toNat < Config.phaseMax → s.env.decay.phase.toNat = 0

/-! ## One unit and the others -/

/-- Every unit but `u` is as it was, and so are the driver's pending events. -/
structure OthersKept (u : UnitId) (s t : State) : Prop where
  ph : u ≠ .ph → t.ph = s.ph
  osc : u ≠ .osc → t.osc = s.osc
  env : u ≠ .env → t.env = s.env
  trig : u ≠ .trig → t.trig = s.trig
  slew : u ≠ .slew → t.slew = s.slew
  port : t.port = s.port

/-- Two states hold the same fields of unit `u`. -/
def AgreeOn (u : UnitId) (s t : State) : Prop :=
  match u with
  | .ph => s.ph = t.ph
  | .osc => s.osc = t.osc
  | .env => s.env = t.env
  | .trig => s.trig = t.trig
  | .slew => s.slew = t.slew

/-! ## Sequences of operations -/

/-- The operations of a list one after the other (R67), stopping at the first refusal. -/
def execList : List Instr → State → Result
  | [], s => .next s
  | i :: is, s =>
    match exec i s with
    | .next t => execList is t
    | .fault f => .fault f
    | .refused r => .refused r

/-- `n` times the same operation. -/
def execTimes (i : Instr) (n : Nat) (s : State) : Result := execList (List.replicate n i) s

/-- The driver's events that present these operations. -/
def wordsOf (is : List Instr) : List PortEvent := is.map fun i => .opw (encode i)

/-! ## Classes of operations (R63) -/

/-- Pure reads: they return a value and change no state. -/
def isPureRead : Instr → Bool
  | .phRunning | .phIsatend | .oscRunning | .oscIsatend => true
  | .phProcess | .phReset | .phSetfreq _ | .phSetdur _ | .phSetloop _ => false
  | .oscProcess | .oscReset | .oscSetfreq _ | .oscSetdur _ | .oscSetloop _ | .oscSettype _ | .oscSetwidth _ => false
  | .envProcess | .envReset | .envSetattack _ | .envSetdecay _ => false
  | .trigProcess | .trigReset | .trigSetwidth _ | .trigSetamp _ => false
  | .slewProcess | .slewSet _ | .slewSetslew _ => false

/-- Reads with side effects: every `PROCESS`. -/
def isProcess (i : Instr) : Bool := decide (i.op = .process)

/-- Writes: every `RESET` and every `SET...` operation. -/
def isWrite (i : Instr) : Bool := !isPureRead i && !isProcess i

/-- The setters (R83): every write but the `RESET`s. -/
def isSetter (i : Instr) : Bool := isWrite i && decide (i.op ≠ .reset)

/-- Setters of one field: `SETFREQ` and `SETDUR` of one unit write the same `delta` (R238). -/
def sameField (i j : Instr) : Bool :=
  decide (i.unit = j.unit) &&
    (decide (i.op = j.op) || (decide (i.op = .setfreq) && decide (j.op = .setdur)) ||
      (decide (i.op = .setdur) && decide (j.op = .setfreq)))

/-! ## A driver that keeps R244 -/

/-- An event after which a looping `PH` still wraps with one subtraction: hardware reset, or a word that is not reserved
and does not set the frequency of `PH` above 40000. -/
def PortEvent.keepsLimit : PortEvent → Bool
  | .hwReset => true
  | .opwUnderReset _ => false
  | .opw w => match decode w with
    | .ok (.phSetfreq freq) => decide (freq.toNat ≤ 40000)
    | .ok _ => true
    | .reserved _ => false

end Sys2Proof.Machine
end

