-- ==== Sys2Proof/Certificates/Slice0/Obligations.lean ====
section
/-! DEFINITION. The statements about the model, each formalising or derived from numbered rules of the spec. The formulas
of the spec are written out here over natural numbers and integers, apart from the model's own operations. -/

namespace Sys2Proof.Spec

open Sys2Proof.Machine

/-- `PHASE_MAX` (R6). -/
abbrev PM : Nat := 2147483647

/-- `DurToDelta(ms)` (R112). -/
def durToDelta (ms : Int) : Nat := if ms < 1 then 0 else 53687000 / ms.toNat

/-- The least integer not below `a / b`, for `b >= 1`. -/
def ceilDiv (a b : Nat) : Nat := (a + b - 1) / b

/-- `Shape(type, width, out)` (R132). -/
def shape (type width out : Nat) : Nat :=
  if type = 2 then (if out < width then 127 else 0)
  else if type = 1 then (if out < 128 then 128 - out else out - 128)
  else out / 2

/-- `Lerp(from, to, i)` (R181), with a right shift by 7 as division by 128. -/
def lerp (fromV toV i : Nat) : Nat := fromV * (127 - i) / 128 + toV * i / 128

/-- The table of R84 with the legal operands of R85: unit, op, and the greatest legal `ARG`. -/
def legalRows : List (Nat × Nat × Nat) :=
  [(0, 0, 0), (0, 1, 0), (0, 2, 80000), (0, 3, 2 ^ 32 - 1), (0, 4, 0), (0, 5, 0), (0, 6, 1)] ++
  [(1, 0, 0), (1, 1, 0), (1, 2, 80000), (1, 3, 2 ^ 32 - 1), (1, 4, 0), (1, 5, 0), (1, 6, 1), (1, 7, 255), (1, 8, 255)] ++
  [(2, 0, 0), (2, 1, 0), (2, 10, 2 ^ 32 - 1), (2, 11, 2 ^ 32 - 1)] ++
  [(3, 0, 0), (3, 1, 0), (3, 8, 2 ^ 32 - 1), (3, 9, 127)] ++
  [(4, 0, 0), (4, 12, 127), (4, 13, 2 ^ 32 - 1)]

/-- A word that is not reserved (R88): `UNIT`, `OP` and `ARG` of a row. -/
def LegalWord (w : OpWord) : Prop :=
  ∃ r ∈ legalRows, w.toNat / 2 ^ 36 = r.1 ∧ w.toNat / 2 ^ 32 % 16 = r.2.1 ∧ w.toNat % 2 ^ 32 ≤ r.2.2

/-- The encoding of an operation, as a number (R81, R91). -/
def WordIs (i : Instr) (n : Nat) : Prop := (encode i).toNat = n

/-- The operation's result is `RES = v`. -/
def Returns (t : State) (v : Nat) : Prop := t.res = some (BitVec.ofNat 32 v)

/-- The range of `RES` (R84): nothing for an operation that returns none. -/
def ResultInRange (i : Instr) (r : Option Word) : Prop :=
  if isWrite i then r = none
  else ∃ v, r = some v ∧ v.toNat ≤ (if isPureRead i then 1 else if i = .oscProcess then 128 else 127)

/-- The table of R47. -/
def ResetFields (t : State) : Prop :=
  (t.ph.phase.toNat = 0 ∧ t.ph.delta.toNat = 0 ∧ t.ph.loop = false) ∧
  (t.osc.phase.toNat = 0 ∧ t.osc.delta.toNat = 0 ∧ t.osc.loop = false ∧ t.osc.type.toNat = 0 ∧ t.osc.width.toNat = 0) ∧
  (t.env.attack.phase.toNat = 0 ∧ t.env.attack.delta.toNat = 10737400 ∧
    t.env.decay.phase.toNat = 0 ∧ t.env.decay.delta.toNat = 357913) ∧
  (t.trig.ssf.toInt = 2147483647 ∧ t.trig.width.toInt = 0 ∧ t.trig.amp.toNat = 0) ∧
  (t.slew.ph.phase.toNat = 0 ∧ t.slew.ph.delta.toNat = 0 ∧ t.slew.fromLevel.toNat = 0 ∧
    t.slew.toLevel.toNat = 0 ∧ t.slew.lastVal.toNat = 0)

end Sys2Proof.Spec

open Sys2Proof Sys2Proof.Machine

/-! ## The port, the decoder and reset -/

/-- A word at the port that decodes to an operation is performed: the step takes the word from the port and is `exec` of
that operation (R80, R91, R67). The port as a list is the model's own (log 1). -/
def Obligations.StepPerformsDecodedWord : Prop :=
  ∀ (s : State) (w : OpWord) (es : List PortEvent) (i : Instr),
    s.port = .opw w :: es → decode w = .ok i → step s = exec i (s.setPort es)

/-- Presenting the word of a well-formed operation makes the next step perform exactly it (R81, R91; log 1). -/
def Obligations.PresentedWordIsPerformedNext : Prop :=
  ∀ (s : State) (i : Instr), i.wellFormed = true →
    decodeTableWord 40 (encode i).toNat = some i ∧ step (s.withFetchWord 40 (encode i).toNat) = exec i s

/-- A reserved word (R88) is refused in any state, and every other word decodes to an operation with a legal operand. -/
def Obligations.ReservedWordsAreRefused : Prop :=
  ∀ (s : State) (w : OpWord),
    (¬ Spec.LegalWord w → ∃ why, decode w = .reserved why ∧ performWord w s = .refused (.reserved why)) ∧
    (Spec.LegalWord w → ∃ i, decode w = .ok i ∧ i.wellFormed = true)

/-- The decoder agrees with the masks of R84: a word decodes to an operation iff some row accepts it, and the rows that
accept it are exactly the row of that operation's unit and kind. -/
def Obligations.DecoderAgreesWithMaskTable : Prop :=
  ∀ (w : OpWord),
    ((∃ i, decode w = .ok i) ↔ ∃ r ∈ opTable, r.accepts w = true) ∧
    (∀ i, decode w = .ok i → ∀ r ∈ opTable, (r.accepts w = true ↔ (r.unit = i.unit ∧ r.op = i.op)))

/-- Decoding the word of a well-formed operation gives the operation back, every operand at every value (R91). -/
def Obligations.DecodeOfEncodeIsTheOperation : Prop :=
  ∀ (i : Instr), i.wellFormed = true → decode (encode i) = .ok i

/-- Encoding what a word decodes to gives the word back, and what it decodes to is well-formed (R91). -/
def Obligations.EncodeOfDecodeIsTheWord : Prop :=
  ∀ (w : OpWord) (i : Instr), decode w = .ok i → encode i = w ∧ i.wellFormed = true

/-- The number of words that are not reserved (R89). -/
def Obligations.NumberOfLegalWords : Prop :=
  Nat.card { w : OpWord // ∃ i, decode w = .ok i } =
    13 + 2 * 80001 + 5 * 2 ^ 32 + 2 ^ 32 + 2 * 2 + 2 * 256 + 2 * 128

/-- A few words of the spec's encoding vectors decode as it says (95_test_vectors.md X1 to X30). -/
def Obligations.SampleWordsDecode : Prop :=
  decode 0x02000001B8 = .ok (.phSetfreq 440) ∧ decode 0x03FFFFFFFB = .ok (.phSetdur (BitVec.ofInt 32 (-5))) ∧
  decode 0x17000000FF = .ok (.oscSettype 255) ∧ decode 0x2B00000096 = .ok (.envSetdecay 150) ∧
  decode 0x38FFFFFFFF = .ok (.trigSetwidth (BitVec.ofInt 32 (-1))) ∧ decode 0x4C00000064 = .ok (.slewSet 100) ∧
  decode 0x0200013881 = .reserved .operand ∧ decode 0x4100000000 = .reserved .pair ∧
  decode 0x5000000000 = .reserved .unit ∧ decode 0x0E00000000 = .reserved .op

/-- Hardware reset puts all 20 fields into the values of R47, from any state; they are the fields the machine starts
with. -/
def Obligations.HardwareResetRestoresEveryField : Prop :=
  Spec.ResetFields State.reset ∧ ∀ (s : State), Spec.ResetFields (hardwareReset s)

/-- Hardware reset has its place among the driver's events and takes effect in one step; asserted under a word it is
refused (R230, U4). The list of events and the empty result port are the model's choices (logs 1, 6 and 10). -/
def Obligations.HardwareResetIsOneOrderedStep : Prop :=
  ∀ (s : State) (es : List PortEvent),
    (s.port = .hwReset :: es → step s = .next (State.reset.setPort es)) ∧
    (∀ (w : OpWord), s.port = .opwUnderReset w :: es → step s = .refused .resetDuringOperation)

/-- With no operation issued the state does not change, however many steps are taken (R67, R231; log 2). -/
def Obligations.BlockDoesNothingByItself : Prop :=
  ∀ (s : State) (n : Nat), s.port = [] → Host.Core.run core n s = .next s

/-- Presenting the words of a list of well-formed operations and taking one step for each is performing the operations one
after the other, with the same outcome, refusals included (R67). The port as a list is the model's own (log 1). -/
def Obligations.PortRunIsTheOperationsInOrder : Prop :=
  ∀ (is : List Instr) (es : List PortEvent) (s : State), (∀ i ∈ is, i.wellFormed = true) →
    s.port = wordsOf is ++ es → Host.Core.run core is.length s = execList is (s.setPort es)

/-! ## Rates and loop flags -/

/-- `PH.SETFREQ` and `OSC.SETFREQ` (R111, R121, R137): a legal frequency writes `53687 * freq` to `delta` and nothing
else. A term with a frequency above 80000, which no word decodes to, is refused: that clause is the model's choice
(log 8). -/
def Obligations.SetFrequencyWritesDelta : Prop :=
  ∀ (s : State) (freq : Word),
    (Spec.WordIs (.phSetfreq freq) (0x0200000000 + freq.toNat) ∧
      Spec.WordIs (.oscSetfreq freq) (0x1200000000 + freq.toNat)) ∧
    (freq.toNat ≤ 80000 →
      (∃ t, exec (.phSetfreq freq) s = .next t ∧ t.ph.delta.toNat = 53687 * freq.toNat ∧
        (t.ph.delta.toNat ≤ Spec.PM ↔ freq.toNat ≤ 40000) ∧
        t.ph.phase = s.ph.phase ∧ t.ph.loop = s.ph.loop ∧ t.res = none ∧ OthersKept .ph s t) ∧
      (∃ t, exec (.oscSetfreq freq) s = .next t ∧ t.osc.delta.toNat = 53687 * freq.toNat ∧
        t.osc.phase = s.osc.phase ∧ t.osc.loop = s.osc.loop ∧ t.osc.type = s.osc.type ∧ t.osc.width = s.osc.width ∧
        t.res = none ∧ OthersKept .osc s t)) ∧
    (80000 < freq.toNat →
      exec (.phSetfreq freq) s = .refused (.reserved .operand) ∧
      exec (.oscSetfreq freq) s = .refused (.reserved .operand))

/-- The five duration setters (R112, R122, R138, R154, R155, R184): each writes `DurToDelta(ms)` of the signed operand to
one `delta` and nothing else. -/
def Obligations.SetDurationWritesDelta : Prop :=
  ∀ (s : State) (ms : Word),
    (Spec.WordIs (.phSetdur ms) (0x0300000000 + ms.toNat) ∧ Spec.WordIs (.oscSetdur ms) (0x1300000000 + ms.toNat) ∧
      Spec.WordIs (.envSetattack ms) (0x2A00000000 + ms.toNat) ∧
      Spec.WordIs (.envSetdecay ms) (0x2B00000000 + ms.toNat) ∧
      Spec.WordIs (.slewSetslew ms) (0x4D00000000 + ms.toNat)) ∧
    (∃ t, exec (.phSetdur ms) s = .next t ∧ t.ph.delta.toNat = Spec.durToDelta ms.toInt ∧
      t.ph.phase = s.ph.phase ∧ t.ph.loop = s.ph.loop ∧ t.res = none ∧ OthersKept .ph s t) ∧
    (∃ t, exec (.oscSetdur ms) s = .next t ∧ t.osc.delta.toNat = Spec.durToDelta ms.toInt ∧
      t.osc.phase = s.osc.phase ∧ t.osc.loop = s.osc.loop ∧ t.osc.type = s.osc.type ∧ t.osc.width = s.osc.width ∧
      t.res = none ∧ OthersKept .osc s t) ∧
    (∃ t, exec (.envSetattack ms) s = .next t ∧ t.env.attack.delta.toNat = Spec.durToDelta ms.toInt ∧
      t.env.attack.phase = s.env.attack.phase ∧ t.env.decay = s.env.decay ∧ t.res = none ∧ OthersKept .env s t) ∧
    (∃ t, exec (.envSetdecay ms) s = .next t ∧ t.env.decay.delta.toNat = Spec.durToDelta ms.toInt ∧
      t.env.decay.phase = s.env.decay.phase ∧ t.env.attack = s.env.attack ∧ t.res = none ∧ OthersKept .env s t) ∧
    (∃ t, exec (.slewSetslew ms) s = .next t ∧ t.slew.ph.delta.toNat = Spec.durToDelta ms.toInt ∧
      t.slew.ph.phase = s.slew.ph.phase ∧ t.slew.fromLevel = s.slew.fromLevel ∧ t.slew.toLevel = s.slew.toLevel ∧
      t.slew.lastVal = s.slew.lastVal ∧ t.res = none ∧ OthersKept .slew s t)

/-- `Running` and `IsAtEnd` of `PH` and `OSC` (R30, R119, R120, R135, R136): the predicate is returned as 1 or 0 and every
field is as it was. -/
def Obligations.PredicatesArePureReads : Prop :=
  ∀ (s : State),
    (Spec.WordIs .phRunning 0x0400000000 ∧ Spec.WordIs .phIsatend 0x0500000000 ∧
      Spec.WordIs .oscRunning 0x1400000000 ∧ Spec.WordIs .oscIsatend 0x1500000000) ∧
    (∃ t, exec .phRunning s = .next t ∧ Spec.Returns t (if 0 < s.ph.delta.toNat then 1 else 0) ∧
      t.ph = s.ph ∧ OthersKept .ph s t) ∧
    (∃ t, exec .phIsatend s = .next t ∧ Spec.Returns t (if Spec.PM ≤ s.ph.phase.toNat then 1 else 0) ∧
      t.ph = s.ph ∧ OthersKept .ph s t) ∧
    (∃ t, exec .oscRunning s = .next t ∧ Spec.Returns t (if 0 < s.osc.delta.toNat then 1 else 0) ∧
      t.osc = s.osc ∧ OthersKept .osc s t) ∧
    (∃ t, exec .oscIsatend s = .next t ∧ Spec.Returns t (if Spec.PM ≤ s.osc.phase.toNat then 1 else 0) ∧
      t.osc = s.osc ∧ OthersKept .osc s t)

/-- `PH.RESET` and `PH.SETLOOP` (R118, R123): each writes one field of `PH` and nothing else. -/
def Obligations.PhResetAndLoopWriteOneField : Prop :=
  ∀ (s : State) (b : Bool),
    (Spec.WordIs .phReset 0x0100000000 ∧ Spec.WordIs (.phSetloop b) (0x0600000000 + b.toNat)) ∧
    (∃ t, exec .phReset s = .next t ∧ t.ph.phase.toNat = 0 ∧ t.ph.delta = s.ph.delta ∧ t.ph.loop = s.ph.loop ∧
      t.res = none ∧ OthersKept .ph s t) ∧
    (∃ t, exec (.phSetloop b) s = .next t ∧ t.ph.loop = b ∧ t.ph.phase = s.ph.phase ∧ t.ph.delta = s.ph.delta ∧
      t.res = none ∧ OthersKept .ph s t)

/-- `OSC.RESET`, `OSC.SETLOOP`, `OSC.SETTYPE`, `OSC.SETWIDTH` (R134, R139, R140, R141): each writes one field of `OSC`
and nothing else. -/
def Obligations.OscWritesOneField : Prop :=
  ∀ (s : State) (b : Bool) (v : Octet),
    (Spec.WordIs .oscReset 0x1100000000 ∧ Spec.WordIs (.oscSetloop b) (0x1600000000 + b.toNat) ∧
      Spec.WordIs (.oscSettype v) (0x1700000000 + v.toNat) ∧ Spec.WordIs (.oscSetwidth v) (0x1800000000 + v.toNat)) ∧
    (∃ t, exec .oscReset s = .next t ∧ t.osc.phase.toNat = 0 ∧ t.osc.delta = s.osc.delta ∧ t.osc.loop = s.osc.loop ∧
      t.osc.type = s.osc.type ∧ t.osc.width = s.osc.width ∧ t.res = none ∧ OthersKept .osc s t) ∧
    (∃ t, exec (.oscSetloop b) s = .next t ∧ t.osc.loop = b ∧ t.osc.toPhasor = s.osc.toPhasor ∧
      t.osc.type = s.osc.type ∧ t.osc.width = s.osc.width ∧ t.res = none ∧ OthersKept .osc s t) ∧
    (∃ t, exec (.oscSettype v) s = .next t ∧ t.osc.type = v ∧ t.osc.toPhasor = s.osc.toPhasor ∧
      t.osc.loop = s.osc.loop ∧ t.osc.width = s.osc.width ∧ t.res = none ∧ OthersKept .osc s t) ∧
    (∃ t, exec (.oscSetwidth v) s = .next t ∧ t.osc.width = v ∧ t.osc.toPhasor = s.osc.toPhasor ∧
      t.osc.loop = s.osc.loop ∧ t.osc.type = s.osc.type ∧ t.res = none ∧ OthersKept .osc s t)

/-! ## PROCESS of each unit -/

/-- `PH.PROCESS` (R110, R113, R114, R115, R117): unless it loops and the sum exceeds `2 * PHASE_MAX`, it returns the phase
before the advance shifted right by 24 and advances: below `PHASE_MAX` the sum, else clamp or one subtraction. Where it
loops and the sum exceeds `2 * PHASE_MAX` it is UNSPECIFIED (R114), and refused (R16, R207): that clause is the model's
choice between the two treatments of U1 (log 4). -/
def Obligations.PhProcessReadsThenAdvances : Prop :=
  ∀ (s : State),
    Spec.WordIs .phProcess 0x0000000000 ∧
    (¬ (s.ph.loop = true ∧ 2 * Spec.PM < s.ph.phase.toNat + s.ph.delta.toNat) →
      ∃ t, exec .phProcess s = .next t ∧ Spec.Returns t (s.ph.phase.toNat / 2 ^ 24) ∧
        t.ph.phase.toNat =
          (if s.ph.phase.toNat + s.ph.delta.toNat < Spec.PM then s.ph.phase.toNat + s.ph.delta.toNat
            else if s.ph.loop = false then Spec.PM
            else s.ph.phase.toNat + s.ph.delta.toNat - Spec.PM) ∧
        t.ph.delta = s.ph.delta ∧ t.ph.loop = s.ph.loop ∧ OthersKept .ph s t) ∧
    (s.ph.loop = true ∧ 2 * Spec.PM < s.ph.phase.toNat + s.ph.delta.toNat →
      exec .phProcess s = .refused .phOverwrap)

/-- `OSC.PROCESS` (R130 to R133) completes in every state: it returns the shape of the phase before the advance shifted
right by 23 and advances: below `PHASE_MAX` the sum, else clamp, or the remainder by `PHASE_MAX` that the multi-wrap loop
leaves. -/
def Obligations.OscProcessShapesAndMultiWraps : Prop :=
  ∀ (s : State),
    Spec.WordIs .oscProcess 0x1000000000 ∧
    ∃ t, exec .oscProcess s = .next t ∧
      Spec.Returns t (Spec.shape s.osc.type.toNat s.osc.width.toNat (s.osc.phase.toNat / 2 ^ 23)) ∧
      t.osc.phase.toNat =
        (if s.osc.phase.toNat + s.osc.delta.toNat < Spec.PM then s.osc.phase.toNat + s.osc.delta.toNat
          else if s.osc.loop = false then Spec.PM
          else (s.osc.phase.toNat + s.osc.delta.toNat) % Spec.PM) ∧
      (s.osc.loop = true → t.osc.phase.toNat < Spec.PM) ∧
      t.osc.delta = s.osc.delta ∧ t.osc.loop = s.osc.loop ∧ t.osc.type = s.osc.type ∧ t.osc.width = s.osc.width ∧
      OthersKept .osc s t

/-- The multi-wrap loop (R131): from any sum it can meet, at most `3 * PHASE_MAX + 1`, three turns leave the remainder by
`PHASE_MAX`, and the model's fourth (log 11) changes nothing. -/
def Obligations.OscWrapEndsInThreeTurns : Prop :=
  ∀ (sum : Nat), sum ≤ 3 * Spec.PM + 1 →
    oscWrapLoop 3 sum = sum % Spec.PM ∧ oscWrapLoop 3 sum < Spec.PM ∧ oscWrap sum = oscWrapLoop 3 sum

/-- `ENV.PROCESS` (R152): while the attack is below `PHASE_MAX` it returns the attack phase shifted right by 24 and only
the attack advances; from then on it returns 127 less the decay phase shifted right by 24 and only the decay advances. -/
def Obligations.EnvProcessAttackThenDecay : Prop :=
  ∀ (s : State), s.InRange →
    Spec.WordIs .envProcess 0x2000000000 ∧
    ∃ t, exec .envProcess s = .next t ∧ OthersKept .env s t ∧
      t.env.attack.delta = s.env.attack.delta ∧ t.env.decay.delta = s.env.decay.delta ∧
      (s.env.attack.phase.toNat < Spec.PM →
        Spec.Returns t (s.env.attack.phase.toNat / 2 ^ 24) ∧ t.env.decay = s.env.decay ∧
        t.env.attack.phase.toNat = min (s.env.attack.phase.toNat + s.env.attack.delta.toNat) Spec.PM) ∧
      (Spec.PM ≤ s.env.attack.phase.toNat →
        Spec.Returns t (127 - s.env.decay.phase.toNat / 2 ^ 24) ∧ t.env.attack = s.env.attack ∧
        t.env.decay.phase.toNat = min (s.env.decay.phase.toNat + s.env.decay.delta.toNat) Spec.PM)

/-- `ENV.RESET` (R153): both phases 0, nothing else. -/
def Obligations.EnvResetZeroesBothPhases : Prop :=
  ∀ (s : State), Spec.WordIs .envReset 0x2100000000 ∧
    ∃ t, exec .envReset s = .next t ∧ t.env.attack.phase.toNat = 0 ∧ t.env.decay.phase.toNat = 0 ∧
    t.env.attack.delta = s.env.attack.delta ∧ t.env.decay.delta = s.env.decay.delta ∧ t.res = none ∧
    OthersKept .env s t

/-- `TRIG.PROCESS` (R166): the counter grows by one, saturating at `SSF_MAX`, and the amplitude is returned where the
incremented counter is below the width, signed. -/
def Obligations.TrigProcessCountsAndCompares : Prop :=
  ∀ (s : State),
    Spec.WordIs .trigProcess 0x3000000000 ∧
    ∃ t, exec .trigProcess s = .next t ∧
      t.trig.ssf.toInt = min (s.trig.ssf.toInt + 1) 2147483647 ∧
      Spec.Returns t (if min (s.trig.ssf.toInt + 1) 2147483647 < s.trig.width.toInt then s.trig.amp.toNat else 0) ∧
      t.trig.width = s.trig.width ∧ t.trig.amp = s.trig.amp ∧ OthersKept .trig s t

/-- `TRIG.RESET`, `TRIG.SETWIDTH` and `TRIG.SETAMP` (R167, R168, R169): each writes one field of `TRIG` and nothing
else. -/
def Obligations.TrigWritesOneField : Prop :=
  ∀ (s : State) (n : Word) (a : Septet),
    (Spec.WordIs .trigReset 0x3100000000 ∧ Spec.WordIs (.trigSetwidth n) (0x3800000000 + n.toNat) ∧
      Spec.WordIs (.trigSetamp a) (0x3900000000 + a.toNat)) ∧
    (∃ t, exec .trigReset s = .next t ∧ t.trig.ssf.toInt = -1 ∧ t.trig.width = s.trig.width ∧
      t.trig.amp = s.trig.amp ∧ t.res = none ∧ OthersKept .trig s t) ∧
    (∃ t, exec (.trigSetwidth n) s = .next t ∧ t.trig.width = n ∧ t.trig.ssf = s.trig.ssf ∧ t.trig.amp = s.trig.amp ∧
      t.res = none ∧ OthersKept .trig s t) ∧
    (∃ t, exec (.trigSetamp a) s = .next t ∧ t.trig.amp = a ∧ t.trig.ssf = s.trig.ssf ∧ t.trig.width = s.trig.width ∧
      t.res = none ∧ OthersKept .trig s t)

/-- `SLEW.PROCESS` (R181, R182): it returns `to` when stopped, else the crossfade at the ramp value read before the
advance; `lastVal` follows the output, the phasor advances one-shot, and nothing else changes. -/
def Obligations.SlewProcessInterpolatesOrSnaps : Prop :=
  ∀ (s : State), s.InRange →
    Spec.WordIs .slewProcess 0x4000000000 ∧
    ∃ t, exec .slewProcess s = .next t ∧ OthersKept .slew s t ∧
      Spec.Returns t (if s.slew.ph.delta.toNat = 0 then s.slew.toLevel.toNat
        else Spec.lerp s.slew.fromLevel.toNat s.slew.toLevel.toNat (s.slew.ph.phase.toNat / 2 ^ 24)) ∧
      t.res = some (t.slew.lastVal.setWidth 32) ∧
      t.slew.ph.phase.toNat = min (s.slew.ph.phase.toNat + s.slew.ph.delta.toNat) Spec.PM ∧
      t.slew.ph.delta = s.slew.ph.delta ∧ t.slew.fromLevel = s.slew.fromLevel ∧ t.slew.toLevel = s.slew.toLevel

/-- `SLEW.SET` (R183): `from` takes the value `lastVal` had, `to` the operand, the ramp restarts, nothing else. -/
def Obligations.SlewSetRestartsFromLastOutput : Prop :=
  ∀ (s : State) (x : Septet),
    Spec.WordIs (.slewSet x) (0x4C00000000 + x.toNat) ∧
    ∃ t, exec (.slewSet x) s = .next t ∧ t.slew.fromLevel = s.slew.lastVal ∧ t.slew.toLevel.toNat = x.toNat ∧
      t.slew.ph.phase.toNat = 0 ∧ t.slew.ph.delta = s.slew.ph.delta ∧ t.slew.lastVal = s.slew.lastVal ∧
      t.res = none ∧ OthersKept .slew s t

/-! ## Whole-machine rules -/

/-- The legal values of the data-path fields hold at reset (R22, R23, R24, R37, R47). -/
def Obligations.LegalValuesHoldAtReset : Prop := State.reset.InRange

/-- Every step keeps every phase at most `PHASE_MAX`, every level at most 127 and the counter at least -1 (R22, R23). -/
def Obligations.StepKeepsLegalValues : Prop :=
  ∀ (s t : State), s.InRange → step s = .next t → t.InRange

/-- The increments that hold at reset and that every step keeps are those a conversion can write (R46). -/
def Obligations.StepKeepsReachableDeltas : Prop :=
  State.reset.DeltasReachable ∧ ∀ (s t : State), s.DeltasReachable → step s = .next t → t.DeltasReachable

/-- What R46 says of the sizes: the embedded phasors' increments are at most 53687000, those of `PH` and `OSC` at most
4294960000, and above `PHASE_MAX` only where a frequency of at least 40001 wrote them. -/
def Obligations.ReachableDeltaBounds : Prop :=
  ∀ (s : State), s.DeltasReachable →
    (s.env.attack.delta.toNat ≤ 53687000 ∧ s.env.decay.delta.toNat ≤ 53687000 ∧ s.slew.ph.delta.toNat ≤ 53687000) ∧
    (s.ph.delta.toNat ≤ 4294960000 ∧ s.osc.delta.toNat ≤ 4294960000) ∧
    (Spec.PM < s.ph.delta.toNat ↔ ∃ f, 40001 ≤ f ∧ f ≤ 80000 ∧ s.ph.delta.toNat = 53687 * f) ∧
    (Spec.PM < s.osc.delta.toNat ↔ ∃ f, 40001 ≤ f ∧ f ≤ 80000 ∧ s.osc.delta.toNat = 53687 * f)

/-- The decay phasor stays at 0 until the attack is at end (R151): it holds at reset and every step keeps it. -/
def Obligations.DecayWaitsForAttack : Prop :=
  State.reset.DecayHeld ∧ ∀ (s t : State), s.DecayHeld → step s = .next t → t.DecayHeld

/-- The only transitions of the envelope (R151): Attacking to Decaying and Decaying to Idle by `ENV.PROCESS`, any state to
Attacking by `ENV.RESET`. -/
def Obligations.EnvelopeTransitions : Prop :=
  ∀ (i : Instr) (s t : State), s.DecayHeld → exec i s = .next t → envPhase t.env ≠ envPhase s.env →
    (i = .envProcess ∧ envPhase s.env = .attacking ∧ envPhase t.env = .decaying) ∨
    (i = .envProcess ∧ envPhase s.env = .decaying ∧ envPhase t.env = .idle) ∨
    (i = .envReset ∧ envPhase t.env = .attacking)

/-- No operation on one unit writes a field of another unit, or touches the driver's later events (R20, R67). -/
def Obligations.OperationsStayInTheirUnit : Prop :=
  ∀ (i : Instr) (s t : State), exec i s = .next t → OthersKept i.unit s t

/-- No operation reads a field of another unit (R20): on two states that hold the same fields of its unit an operation
is refused alike, or returns the same result and leaves the same fields of its unit. -/
def Obligations.OperationsReadOnlyTheirUnit : Prop :=
  ∀ (i : Instr) (s s' : State), AgreeOn i.unit s s' →
    (∃ t t', exec i s = .next t ∧ exec i s' = .next t' ∧ AgreeOn i.unit t t' ∧ t.res = t'.res) ∨
    (∃ r, exec i s = .refused r ∧ exec i s' = .refused r)

/-- Operations on different units commute (R67 b): the same two results and the same state in either order. -/
def Obligations.DifferentUnitsCommute : Prop :=
  ∀ (i j : Instr) (s s₁ s₂ : State), i.unit ≠ j.unit → exec i s = .next s₁ → exec j s₁ = .next s₂ →
    ∃ t₁ t₂, exec j s = .next t₁ ∧ exec i t₁ = .next t₂ ∧ t₁.res = s₂.res ∧ t₂.res = s₁.res ∧
      t₂.setRes none = s₂.setRes none

/-- Setters of different fields commute (R238): the same state in either order. -/
def Obligations.SettersOfDifferentFieldsCommute : Prop :=
  ∀ (i j : Instr) (s : State), isSetter i = true → isSetter j = true → sameField i j = false →
    i.wellFormed = true → j.wellFormed = true →
    ∃ t, execList [i, j] s = .next t ∧ execList [j, i] s = .next t

/-- The later of two rate setters of one unit wins (R31, R238). -/
def Obligations.LaterRateSetterWins : Prop :=
  ∀ (i j : Instr) (s : State), i.unit = j.unit → (i.op = .setfreq ∨ i.op = .setdur) → (j.op = .setfreq ∨ j.op = .setdur) →
    i.wellFormed = true → execList [i, j] s = exec j s

/-- The classes of R63: pure reads change no field, and writes return nothing and are idempotent. -/
def Obligations.ReadsArePureAndWritesIdempotent : Prop :=
  ∀ (i : Instr) (s t : State), exec i s = .next t →
    (isPureRead i = true → t.setRes none = s.setRes none ∧ exec i t = .next t) ∧
    (isWrite i = true → t.res = none ∧ exec i t = .next t)

/-- The range of every result (R84, R87): predicates 0 or 1, values 0 to 127, and 0 to 128 for `OSC.PROCESS`. -/
def Obligations.ResultsStayInRange : Prop :=
  ∀ (i : Instr) (s t : State), s.InRange → exec i s = .next t → Spec.ResultInRange i t.res

/-- `OSC.PROCESS` exceeds 127 only for the triangle at the start of its cycle (R132, C2). -/
def Obligations.OscExceedsOnlyOnTriangleStart : Prop :=
  ∀ (s t : State) (v : Word), s.InRange → exec .oscProcess s = .next t → t.res = some v →
    (127 < v.toNat ↔ s.osc.type.toNat = 1 ∧ s.osc.phase.toNat < 2 ^ 23)

/-- Every operation that is not UNSPECIFIED completes (R204, R237): a well-formed operation answers a next state from any
state, but for the overwrap of a looping `PH` (R114). -/
def Obligations.EveryOperationCompletes : Prop :=
  ∀ (i : Instr) (s : State), i.wellFormed = true →
    ¬ (i = .phProcess ∧ s.ph.loop = true ∧ 2 * Spec.PM < s.ph.phase.toNat + s.ph.delta.toNat) →
    ∃ t, exec i s = .next t ∧ OthersKept i.unit s t

/-- The refusals of an operation are exactly a reserved operand and the overwrap of a looping `PH` (R88, R114, R207);
the names are the model's (logs 4, 5, 8). -/
def Obligations.RefusalsAreExactlyTheUnspecified : Prop :=
  ∀ (i : Instr) (s : State) (r : Refusal), exec i s = .refused r ↔
    ((i.wellFormed = false ∧ r = .reserved .operand) ∨
     (i = .phProcess ∧ s.ph.loop = true ∧ 2 * Spec.PM < s.ph.phase.toNat + s.ph.delta.toNat ∧ r = .phOverwrap))

/-- A driver that issues no reserved word and sets no `PH` frequency above 40000 is never refused, for any number of steps
(R244, R237): from any state in range with an increment one subtraction can wrap. -/
def Obligations.LimitedDriverIsNeverRefused : Prop :=
  ∀ (s : State) (n : Nat), s.InRange → s.ph.delta.toNat ≤ Spec.PM → (∀ e ∈ s.port, e.keepsLimit = true) →
    ∃ t, Host.Core.run core n s = .next t ∧ t.InRange ∧ t.ph.delta.toNat ≤ Spec.PM

/-! ## Runs of one unit -/

/-- A one-shot phasor from phase 0 (R124): after `n` `PH.PROCESS` operations the phase is `min(n * delta, PHASE_MAX)`, and
the next returns that shifted right by 24. -/
def Obligations.PhOneShotRamp : Prop :=
  ∀ (s : State) (n : Nat), s.ph.loop = false → s.ph.phase.toNat = 0 →
    ∃ t u, execTimes .phProcess n s = .next t ∧ t.ph.phase.toNat = min (n * s.ph.delta.toNat) Spec.PM ∧
      exec .phProcess t = .next u ∧ Spec.Returns u (min (n * s.ph.delta.toNat) Spec.PM / 2 ^ 24)

/-- A one-shot phasor with `delta > 0` from phase 0 is at end after exactly `ceil(PHASE_MAX / delta)` operations and not
before, and returns 127 from then on (R124, E2). -/
def Obligations.PhOneShotEndsOnTime : Prop :=
  ∀ (s : State) (n : Nat), s.ph.loop = false → s.ph.phase.toNat = 0 → 0 < s.ph.delta.toNat →
    ∃ t u v, execTimes .phProcess n s = .next t ∧
      exec .phIsatend t = .next u ∧ Spec.Returns u (if Spec.ceilDiv Spec.PM s.ph.delta.toNat ≤ n then 1 else 0) ∧
      exec .phProcess t = .next v ∧ (Spec.ceilDiv Spec.PM s.ph.delta.toNat ≤ n → Spec.Returns v 127)

/-- A duration of 1 to 1148 ms takes `40 * ms + 1` operations from phase 0 to the end (R122, R248). -/
def Obligations.DurationTakesFortyPerMillisecondPlusOne : Prop :=
  ∀ (s t : State) (ms : Word) (n : Nat), 1 ≤ ms.toInt → ms.toInt ≤ 1148 → s.ph.loop = false → s.ph.phase.toNat = 0 →
    exec (.phSetdur ms) s = .next t →
    ∃ u, execTimes .phProcess n t = .next u ∧ (isAtEnd u.ph.toPhasor = true ↔ 40 * ms.toInt + 1 ≤ n)

/-- A looping phasor with `delta <= PHASE_MAX` from phase 0 (R124): every operation completes, after `n` of them the phase
is `(n * delta) mod PHASE_MAX`, so it never stands at `PHASE_MAX`. -/
def Obligations.PhLoopingPhase : Prop :=
  ∀ (s : State) (n : Nat), s.ph.loop = true → s.ph.phase.toNat = 0 → s.ph.delta.toNat ≤ Spec.PM →
    ∃ t, execTimes .phProcess n s = .next t ∧ t.ph.phase.toNat = n * s.ph.delta.toNat % Spec.PM ∧
      t.ph.phase.toNat < Spec.PM

/-- A looping Osc from phase 0 with any increment (R142): after `n` operations the phase is `(n * delta) mod PHASE_MAX`,
and the next returns the shape of that shifted right by 23. -/
def Obligations.OscLoopingRun : Prop :=
  ∀ (s : State) (n : Nat), s.osc.loop = true → s.osc.phase.toNat = 0 →
    ∃ t u, execTimes .oscProcess n s = .next t ∧ t.osc.phase.toNat = n * s.osc.delta.toNat % Spec.PM ∧
      exec .oscProcess t = .next u ∧
      Spec.Returns u (Spec.shape s.osc.type.toNat s.osc.width.toNat (n * s.osc.delta.toNat % Spec.PM / 2 ^ 23))

/-- An envelope from both phases 0 (R156): with `Na = ceil(PHASE_MAX / a)` and `Nd = ceil(PHASE_MAX / d)`, operation
`n + 1` returns `(n * a) >> 24` for `n < Na` and `127 - (min((n - Na) * d, PHASE_MAX) >> 24)` from then on, and the unit
is Attacking, Decaying, Idle at the operations R156 gives. -/
def Obligations.EnvelopeRun : Prop :=
  ∀ (s : State) (n a d : Nat), s.env.attack.phase.toNat = 0 → s.env.decay.phase.toNat = 0 →
    s.env.attack.delta.toNat = a → s.env.decay.delta.toNat = d → 0 < a → 0 < d →
    ∃ t u, execTimes .envProcess n s = .next t ∧ exec .envProcess t = .next u ∧
      (n < Spec.ceilDiv Spec.PM a → Spec.Returns u (n * a / 2 ^ 24)) ∧
      (Spec.ceilDiv Spec.PM a ≤ n →
        Spec.Returns u (127 - min ((n - Spec.ceilDiv Spec.PM a) * d) Spec.PM / 2 ^ 24)) ∧
      envPhase t.env = (if n < Spec.ceilDiv Spec.PM a then .attacking
        else if n < Spec.ceilDiv Spec.PM a + Spec.ceilDiv Spec.PM d then .decaying else .idle)

/-- A pulse (R170): after `TRIG.RESET` and `n` `TRIG.PROCESS` operations, operation `n + 1` writes `min(n, SSF_MAX)` to the
counter and returns the amplitude iff `n + 1 <= width`, so the pulse is exactly `width` samples long. -/
def Obligations.TrigPulseLastsWidthSamples : Prop :=
  ∀ (s : State) (n : Nat),
    ∃ t u, execList (.trigReset :: List.replicate n .trigProcess) s = .next t ∧ exec .trigProcess t = .next u ∧
      u.trig.ssf.toInt = min (n : Int) 2147483647 ∧
      Spec.Returns u (if (n : Int) + 1 ≤ s.trig.width.toInt then s.trig.amp.toNat else 0)

/-- Before the first `TRIG.RESET` the unit does not fire (R165, R170): from a counter at `SSF_MAX`, after any operations of
any units but `TRIG.RESET`, the counter is still `SSF_MAX` and `TRIG.PROCESS` returns 0. -/
def Obligations.TrigSilentUntilFired : Prop :=
  ∀ (is : List Instr) (s t : State), s.trig.ssf.toInt = 2147483647 → Instr.trigReset ∉ is → execList is s = .next t →
    t.trig.ssf.toInt = 2147483647 ∧ ∃ u, exec .trigProcess t = .next u ∧ Spec.Returns u 0

/-- No sequence of operations restores `TRIG.ssf = SSF_MAX` short of `SSF_MAX - ssf` `TRIG.PROCESS` operations (R232). -/
def Obligations.OnlyCountingRestoresSsfMax : Prop :=
  ∀ (is : List Instr) (s t : State), s.InRange → execList is s = .next t → t.trig.ssf.toInt = 2147483647 →
    2147483647 - s.trig.ssf.toInt ≤ (is.count .trigProcess : Int)

/-- Out of reset (R237) `PH`, `OSC`, `TRIG` and `SLEW` return 0 for ever, however often they are processed, and `ENV` runs
its 5 ms and 150 ms envelope from the first operation (R156). -/
def Obligations.ProcessOutOfReset : Prop :=
  ∀ (n : Nat),
    (∀ i ∈ [Instr.phProcess, .oscProcess, .trigProcess, .slewProcess],
      ∃ t u, execTimes i n State.reset = .next t ∧ exec i t = .next u ∧ Spec.Returns u 0) ∧
    ∃ t u, execTimes .envProcess n State.reset = .next t ∧ exec .envProcess t = .next u ∧
      Spec.Returns u (if n < 201 then n * 10737400 / 2 ^ 24 else 127 - min ((n - 201) * 357913) Spec.PM / 2 ^ 24)

/-- A slew (R185): after `SLEW.SET x` and `n` `SLEW.PROCESS` operations, the next returns the crossfade from the previous
output to `x` at the ramp value `min(n * d, PHASE_MAX) >> 24`, which is `(x * 127) >> 7` from `n = ceil(0x7F000000 / d)`
on, or `x` itself where the slew time is zero. -/
def Obligations.SlewRun : Prop :=
  ∀ (s : State) (x : Septet) (n : Nat),
    ∃ t u, execList (.slewSet x :: List.replicate n .slewProcess) s = .next t ∧ exec .slewProcess t = .next u ∧
      (0 < s.slew.ph.delta.toNat →
        Spec.Returns u (Spec.lerp s.slew.lastVal.toNat x.toNat (min (n * s.slew.ph.delta.toNat) Spec.PM / 2 ^ 24)) ∧
        (Spec.ceilDiv 0x7F000000 s.slew.ph.delta.toNat ≤ n → Spec.Returns u (x.toNat * 127 / 128))) ∧
      (s.slew.ph.delta.toNat = 0 → Spec.Returns u x.toNat)

/-- A slew from level 0 with a non-zero slew time never falls, and never reaches a target of at least 1 (R185, R182, C1):
each `SLEW.PROCESS` returns at least what the one before returned, and at most one below the target. -/
def Obligations.SlewFromZeroRisesBelowTarget : Prop :=
  ∀ (s : State) (x : Septet) (n : Nat), s.slew.lastVal.toNat = 0 → 0 < s.slew.ph.delta.toNat → 1 ≤ x.toNat →
    ∃ (t u v : State) (p q : Word), execList (.slewSet x :: List.replicate n .slewProcess) s = .next t ∧
      exec .slewProcess t = .next u ∧ exec .slewProcess u = .next v ∧ u.res = some p ∧ v.res = some q ∧
      p.toNat ≤ q.toNat ∧ q.toNat ≤ x.toNat - 1

/-! ## Notation -/

/-- The line of every well-formed operation, its operand in decimal, assembles to its word, and `TRIG.FIRE` is another
spelling of `TRIG.RESET` (R92, R93; log 13). -/
def Obligations.EveryLineAssembles : Prop :=
  (∀ (i : Instr), i.wellFormed = true → assembleLine (renderLine i) = some (encode i)) ∧
  assembleLine "TRIG.FIRE" = some (encode .trigReset)

/-- A program text runs in order (R92, R67): the lines of a list of well-formed operations assemble, and a driver that
presents the words has performed the operations one after the other (logs 1 and 13). -/
def Obligations.ProgramTextRunsInOrder : Prop :=
  ∀ (is : List Instr) (s : State), (∀ i ∈ is, i.wellFormed = true) →
    ∃ ws, assembleProgram (is.map renderLine) = some ws ∧
      Host.Core.run core is.length (s.setPort (ws.map .opw)) = execList is (s.setPort [])
end

