-- ==== Sys2Proof/Laws/Assembler.lean ====
section
/-! SUPPORT. What the reader of assembler lines computes: numerals read back, and a line of two words is split in two
(`30_encoding.md` R92). -/

namespace Sys2Proof.Machine

/-- Reading one more digit. -/
theorem digitsValue_concat (base acc : Nat) (l : List Char) (c : Char) :
    digitsValue base acc (l ++ [c]) =
      (digitsValue base acc l).bind fun v => (digitValue base c).map fun d => v * base + d := by
  induction l generalizing acc with
  | nil =>
    simp only [List.nil_append, digitsValue, Option.bind_some]
    cases digitValue base c <;> rfl
  | cons a l ih =>
    simp only [List.cons_append, digitsValue]
    cases digitValue base a with
    | none => rfl
    | some d => exact ih _

/-- A decimal digit's character reads as the digit. -/
theorem digitValue_digitChar {d : Nat} (h : d < 10) : digitValue 10 d.digitChar = some d := by
  revert d
  decide

/-- A decimal numeral reads back. -/
theorem digitsValue_toDigits (n : Nat) : digitsValue 10 0 (Nat.toDigits 10 n) = some n := by
  induction n using Nat.strongRecOn with
  | ind n ih =>
    by_cases h : n < 10
    · rw [Nat.toDigits_of_lt_base h]
      simp [digitsValue, digitValue_digitChar h]
    · rw [Nat.toDigits_of_base_le (by decide) (by omega), digitsValue_concat, ih (n / 10) (by omega),
        digitValue_digitChar (Nat.mod_lt _ (by decide))]
      simp only [Option.bind_some, Option.map_some, Option.some.injEq]
      omega

theorem digit_of_mem_toDigits {n : Nat} {c : Char} (h : c ∈ Nat.toDigits 10 n) : c.isDigit = true :=
  Nat.isDigit_of_mem_toDigits (by decide) (by decide) h

/-- The numeral of a natural number reads back. -/
theorem numeralValue_toDigits (n : Nat) : numeralValue (Nat.toDigits 10 n) = some n := by
  have hx : 'x' ∉ Nat.toDigits 10 n := fun h => absurd (digit_of_mem_toDigits h) (by decide)
  rw [← digitsValue_toDigits n]
  unfold numeralValue
  split
  · rename_i h; exact absurd h Nat.toDigits_ne_nil
  · rename_i h; exact absurd (h ▸ by simp) hx
  · rename_i h; exact absurd (h ▸ by simp) hx
  · rfl

/-- The numeral of an integer reads back. -/
theorem operandValue_toString (v : Int) : operandValue (toString v).toList = some v := by
  cases v with
  | ofNat n =>
    have e : (toString (Int.ofNat n)).toList = Nat.toDigits 10 n := Nat.toList_repr
    have hm : '-' ∉ Nat.toDigits 10 n := fun h => absurd (digit_of_mem_toDigits h) (by decide)
    rw [e]
    unfold operandValue
    split
    · rename_i h; exact absurd (h ▸ by simp) hm
    · rename_i h; exact absurd (h ▸ by simp) hm
    · rw [numeralValue_toDigits]; rfl
  | negSucc n =>
    have e : (toString (Int.negSucc n)).toList = '-' :: Nat.toDigits 10 (n + 1) := by
      show (("-" ++ Nat.repr (n + 1) : String)).toList = _
      rw [String.toList_append, Nat.toList_repr]; rfl
    have hx : 'x' ∉ Nat.toDigits 10 (n + 1) := fun h => absurd (digit_of_mem_toDigits h) (by decide)
    rw [e]
    unfold operandValue
    split
    · rename_i h
      simp only [List.cons.injEq, true_and] at h
      exact absurd (h ▸ by simp) hx
    · rename_i h
      simp only [List.cons.injEq, true_and] at h
      subst h
      rw [numeralValue_toDigits]; rfl
    · rename_i h₁ h₂
      exact absurd rfl (h₂ _)

/-- A character that does not end a word. -/
def wordChar (c : Char) : Bool := decide (c ≠ ' ') && decide (c ≠ ';')

/-- The last word of a line. -/
theorem lineWords_last (l cur : List Char) (h : ∀ c ∈ l, wordChar c = true) (hn : cur ≠ [] ∨ l ≠ []) :
    lineWords cur l = [cur.reverse ++ l] := by
  induction l generalizing cur with
  | nil =>
    have : cur ≠ [] := hn.resolve_right (fun h => h rfl)
    simp [lineWords, this]
  | cons a l ih =>
    have ha : a ≠ ' ' ∧ a ≠ ';' := by simpa [wordChar] using h a (by simp)
    rw [lineWords, if_neg ha.2, if_neg ha.1, ih (a :: cur) (fun c hc => h c (by simp [hc])) (.inl (by simp))]
    simp

/-- A word and what follows it. -/
theorem lineWords_first (l r cur : List Char) (h : ∀ c ∈ l, wordChar c = true) (hn : cur ≠ [] ∨ l ≠ []) :
    lineWords cur (l ++ ' ' :: r) = (cur.reverse ++ l) :: lineWords [] r := by
  induction l generalizing cur with
  | nil =>
    have : cur ≠ [] := hn.resolve_right (fun h => h rfl)
    simp [lineWords, this]
  | cons a l ih =>
    have ha : a ≠ ' ' ∧ a ≠ ';' := by simpa [wordChar] using h a (by simp)
    rw [List.cons_append, lineWords, if_neg ha.2, if_neg ha.1,
      ih (a :: cur) (fun c hc => h c (by simp [hc])) (.inl (by simp))]
    simp

/-- A numeral is one non-empty word. -/
theorem toString_word (v : Int) :
    (∀ c ∈ (toString v).toList, wordChar c = true) ∧ (toString v).toList ≠ [] := by
  have k (n : Nat) : ∀ c ∈ Nat.toDigits 10 n, wordChar c = true := by
    intro c hc
    have := digit_of_mem_toDigits hc
    have h1 : c ≠ ' ' := by rintro rfl; exact absurd this (by decide)
    have h2 : c ≠ ';' := by rintro rfl; exact absurd this (by decide)
    simp [wordChar, h1, h2]
  cases v with
  | ofNat n =>
    have e : (toString (Int.ofNat n)).toList = Nat.toDigits 10 n := Nat.toList_repr
    rw [e]; exact ⟨k n, Nat.toDigits_ne_nil⟩
  | negSucc n =>
    have e : (toString (Int.negSucc n)).toList = '-' :: Nat.toDigits 10 (n + 1) := by
      show (("-" ++ Nat.repr (n + 1) : String)).toList = _
      rw [String.toList_append, Nat.toList_repr]; rfl
    rw [e]; refine ⟨?_, by simp⟩
    intro c hc
    rcases List.mem_cons.1 hc with rfl | hc
    · decide
    · exact k _ c hc

set_option maxRecDepth 8000 in
/-- Every mnemonic is one non-empty word that names its row. -/
theorem mnemonic_facts : ∀ r ∈ opTable,
    ((opMnemonic r.unit r.op).toList.all wordChar = true ∧ (opMnemonic r.unit r.op).toList ≠ []) ∧
      rowNamed (opMnemonic r.unit r.op).toList = some (r.unit, r.op) := by decide

/-- Every operation has its row. -/
theorem row_of (i : Instr) : ∃ r ∈ opTable, r.unit = i.unit ∧ r.op = i.op := by
  have h : ∀ u op, (opTable.any fun r => decide (r.unit = u) && decide (r.op = op)) = true →
      ∃ r ∈ opTable, r.unit = u ∧ r.op = op := by
    intro u op h
    obtain ⟨r, hr, h⟩ := List.any_eq_true.1 h
    simp only [Bool.and_eq_true, decide_eq_true_eq] at h
    exact ⟨r, hr, h⟩
  cases i <;> exact h _ _ rfl

/-- A line of one word. -/
theorem assembleLine_plain (i : Instr) (h : takesOperand i.op = false) :
    assembleLine (opMnemonic i.unit i.op) = some (packWord i.unit.code i.op.code 0) := by
  obtain ⟨r, hr, hu, ho⟩ := row_of i
  obtain ⟨⟨h1, h2⟩, h3⟩ := mnemonic_facts r hr
  rw [hu, ho] at h1 h2 h3
  unfold assembleLine
  rw [lineWords_last _ _ (List.all_eq_true.1 h1) (.inr h2)]
  simp only [List.reverse_nil, List.nil_append, h3, h]
  rfl

/-- A line of a mnemonic and a numeral. -/
theorem assembleLine_operand (i : Instr) (v : Int) :
    assembleLine (opMnemonic i.unit i.op ++ " " ++ toString v) =
    (operandPattern i.unit i.op v).map fun arg => packWord i.unit.code i.op.code arg := by
  obtain ⟨r, hr, hu, ho⟩ := row_of i
  obtain ⟨⟨h1, h2⟩, h3⟩ := mnemonic_facts r hr
  rw [hu, ho] at h1 h2 h3
  obtain ⟨d1, d2⟩ := toString_word v
  unfold assembleLine
  have e : (opMnemonic i.unit i.op ++ " " ++ toString v).toList =
      (opMnemonic i.unit i.op).toList ++ ' ' :: (toString v).toList := by
    rw [String.toList_append, String.toList_append]; simp
  rw [e, lineWords_first _ _ _ (List.all_eq_true.1 h1) (.inr h2), lineWords_last _ _ d1 (.inr d2)]
  simp only [List.reverse_nil, List.nil_append, h3, operandValue_toString]

end Sys2Proof.Machine
end

