-- ==== Sys2Proof/Laws/Decode.lean ====
section
/-! SUPPORT. Fields of a packed word, and the codes of units and operations read back (`30_encoding.md` R81 to R83). -/

namespace Sys2Proof

/-- The value of a packed word: `UNIT * 2^36 + OP * 2^32 + ARG` (R81). -/
theorem packWord_toNat (u op : Code) (arg : Word) :
    (packWord u op arg).toNat = u.toNat * 2 ^ 36 + op.toNat * 2 ^ 32 + arg.toNat := by
  have h₁ := op.isLt
  have h₂ := arg.isLt
  simp only [packWord, BitVec.toNat_append]
  rw [← Nat.shiftLeft_add_eq_or_of_lt (by omega), ← Nat.shiftLeft_add_eq_or_of_lt (by omega)]
  simp only [Nat.shiftLeft_eq]
  omega

/-- The value of an operation's word (R81, R91). -/
theorem encode_toNat (i : Instr) :
    (encode i).toNat = i.unit.code.toNat * 2 ^ 36 + i.op.code.toNat * 2 ^ 32 + i.arg.toNat :=
  packWord_toNat _ _ _

/-- The unit field as a number. -/
theorem unitField_toNat (w : OpWord) : (unitField w).toNat = w.toNat / 2 ^ 36 := by
  have := w.isLt
  simp only [unitField, BitVec.extractLsb'_toNat, Nat.shiftRight_eq_div_pow]
  omega

/-- The op field as a number. -/
theorem opField_toNat (w : OpWord) : (opField w).toNat = w.toNat / 2 ^ 32 % 16 := by
  simp only [opField, BitVec.extractLsb'_toNat, Nat.shiftRight_eq_div_pow]

/-- The operand field as a number. -/
theorem argField_toNat (w : OpWord) : (argField w).toNat = w.toNat % 2 ^ 32 := by
  simp only [argField, BitVec.extractLsb'_toNat, Nat.shiftRight_zero]

@[simp] theorem unitField_packWord (u op : Code) (arg : Word) : unitField (packWord u op arg) = u := by
  have h₀ := u.isLt
  have h₁ := op.isLt
  have h₂ := arg.isLt
  apply BitVec.eq_of_toNat_eq
  rw [unitField_toNat, packWord_toNat]
  omega

@[simp] theorem opField_packWord (u op : Code) (arg : Word) : opField (packWord u op arg) = op := by
  have h₁ := op.isLt
  have h₂ := arg.isLt
  apply BitVec.eq_of_toNat_eq
  rw [opField_toNat, packWord_toNat]
  omega

@[simp] theorem argField_packWord (u op : Code) (arg : Word) : argField (packWord u op arg) = arg := by
  have h₂ := arg.isLt
  apply BitVec.eq_of_toNat_eq
  rw [argField_toNat, packWord_toNat]
  omega

/-- A word is its three fields (R81). -/
theorem packWord_fields (w : OpWord) : packWord (unitField w) (opField w) (argField w) = w := by
  have := w.isLt
  apply BitVec.eq_of_toNat_eq
  rw [packWord_toNat, unitField_toNat, opField_toNat, argField_toNat]
  omega

@[simp] theorem decodeUnit_code (u : UnitId) : decodeUnit u.code = some u := by cases u <;> rfl

@[simp] theorem decodeOp_code (op : OpName) : decodeOp op.code = some op := by cases op <;> rfl

/-- Only a unit's own code decodes to it (R82). -/
theorem code_of_decodeUnit {c : Code} {u : UnitId} (h : decodeUnit c = some u) : u.code = c := by
  revert h; revert c; cases u <;> decide

/-- Only an operation kind's own code decodes to it (R83). -/
theorem code_of_decodeOp {c : Code} {op : OpName} (h : decodeOp c = some op) : op.code = c := by
  revert h; revert c; cases op <;> decide

/-- Decoding a packed word of assigned codes is the table look-up (R91). -/
theorem decode_packWord (u : UnitId) (op : OpName) (arg : Word) :
    decode (packWord u.code op.code arg) = decodeRow u op arg := by
  simp [decode]

/-- A word that decodes to an operation has assigned codes, and its row accepts its operand (R91). -/
theorem decode_ok_cases {w : OpWord} {i : Instr} (h : decode w = .ok i) :
    ∃ u op, u.code = unitField w ∧ op.code = opField w ∧ decodeRow u op (argField w) = .ok i := by
  unfold decode at h
  split at h
  · exact absurd h nofun
  · exact absurd h nofun
  · rename_i u op hu hop
    exact ⟨u, op, code_of_decodeUnit hu, code_of_decodeOp hop, h⟩

end Sys2Proof
end

