-- ==== Sys2Proof/Laws/State.lean ====
section
/-! SUPPORT. One lemma per field per update of State and of its units, so that no proof unfolds a record update. -/

namespace Sys2Proof.Machine

/-! ## `State.setPh` -/

@[simp] theorem State.setPh_ph (s : State) (v : PhUnit) : (s.setPh v).ph = v := rfl
@[simp] theorem State.setPh_osc (s : State) (v : PhUnit) : (s.setPh v).osc = s.osc := rfl
@[simp] theorem State.setPh_env (s : State) (v : PhUnit) : (s.setPh v).env = s.env := rfl
@[simp] theorem State.setPh_trig (s : State) (v : PhUnit) : (s.setPh v).trig = s.trig := rfl
@[simp] theorem State.setPh_slew (s : State) (v : PhUnit) : (s.setPh v).slew = s.slew := rfl
@[simp] theorem State.setPh_res (s : State) (v : PhUnit) : (s.setPh v).res = s.res := rfl
@[simp] theorem State.setPh_port (s : State) (v : PhUnit) : (s.setPh v).port = s.port := rfl

/-! ## `State.setOsc` -/

@[simp] theorem State.setOsc_ph (s : State) (v : OscUnit) : (s.setOsc v).ph = s.ph := rfl
@[simp] theorem State.setOsc_osc (s : State) (v : OscUnit) : (s.setOsc v).osc = v := rfl
@[simp] theorem State.setOsc_env (s : State) (v : OscUnit) : (s.setOsc v).env = s.env := rfl
@[simp] theorem State.setOsc_trig (s : State) (v : OscUnit) : (s.setOsc v).trig = s.trig := rfl
@[simp] theorem State.setOsc_slew (s : State) (v : OscUnit) : (s.setOsc v).slew = s.slew := rfl
@[simp] theorem State.setOsc_res (s : State) (v : OscUnit) : (s.setOsc v).res = s.res := rfl
@[simp] theorem State.setOsc_port (s : State) (v : OscUnit) : (s.setOsc v).port = s.port := rfl

/-! ## `State.setEnv` -/

@[simp] theorem State.setEnv_ph (s : State) (v : EnvUnit) : (s.setEnv v).ph = s.ph := rfl
@[simp] theorem State.setEnv_osc (s : State) (v : EnvUnit) : (s.setEnv v).osc = s.osc := rfl
@[simp] theorem State.setEnv_env (s : State) (v : EnvUnit) : (s.setEnv v).env = v := rfl
@[simp] theorem State.setEnv_trig (s : State) (v : EnvUnit) : (s.setEnv v).trig = s.trig := rfl
@[simp] theorem State.setEnv_slew (s : State) (v : EnvUnit) : (s.setEnv v).slew = s.slew := rfl
@[simp] theorem State.setEnv_res (s : State) (v : EnvUnit) : (s.setEnv v).res = s.res := rfl
@[simp] theorem State.setEnv_port (s : State) (v : EnvUnit) : (s.setEnv v).port = s.port := rfl

/-! ## `State.setTrig` -/

@[simp] theorem State.setTrig_ph (s : State) (v : TrigUnit) : (s.setTrig v).ph = s.ph := rfl
@[simp] theorem State.setTrig_osc (s : State) (v : TrigUnit) : (s.setTrig v).osc = s.osc := rfl
@[simp] theorem State.setTrig_env (s : State) (v : TrigUnit) : (s.setTrig v).env = s.env := rfl
@[simp] theorem State.setTrig_trig (s : State) (v : TrigUnit) : (s.setTrig v).trig = v := rfl
@[simp] theorem State.setTrig_slew (s : State) (v : TrigUnit) : (s.setTrig v).slew = s.slew := rfl
@[simp] theorem State.setTrig_res (s : State) (v : TrigUnit) : (s.setTrig v).res = s.res := rfl
@[simp] theorem State.setTrig_port (s : State) (v : TrigUnit) : (s.setTrig v).port = s.port := rfl

/-! ## `State.setSlew` -/

@[simp] theorem State.setSlew_ph (s : State) (v : SlewUnit) : (s.setSlew v).ph = s.ph := rfl
@[simp] theorem State.setSlew_osc (s : State) (v : SlewUnit) : (s.setSlew v).osc = s.osc := rfl
@[simp] theorem State.setSlew_env (s : State) (v : SlewUnit) : (s.setSlew v).env = s.env := rfl
@[simp] theorem State.setSlew_trig (s : State) (v : SlewUnit) : (s.setSlew v).trig = s.trig := rfl
@[simp] theorem State.setSlew_slew (s : State) (v : SlewUnit) : (s.setSlew v).slew = v := rfl
@[simp] theorem State.setSlew_res (s : State) (v : SlewUnit) : (s.setSlew v).res = s.res := rfl
@[simp] theorem State.setSlew_port (s : State) (v : SlewUnit) : (s.setSlew v).port = s.port := rfl

/-! ## `State.setRes` -/

@[simp] theorem State.setRes_ph (s : State) (v : Option Word) : (s.setRes v).ph = s.ph := rfl
@[simp] theorem State.setRes_osc (s : State) (v : Option Word) : (s.setRes v).osc = s.osc := rfl
@[simp] theorem State.setRes_env (s : State) (v : Option Word) : (s.setRes v).env = s.env := rfl
@[simp] theorem State.setRes_trig (s : State) (v : Option Word) : (s.setRes v).trig = s.trig := rfl
@[simp] theorem State.setRes_slew (s : State) (v : Option Word) : (s.setRes v).slew = s.slew := rfl
@[simp] theorem State.setRes_res (s : State) (v : Option Word) : (s.setRes v).res = v := rfl
@[simp] theorem State.setRes_port (s : State) (v : Option Word) : (s.setRes v).port = s.port := rfl

/-! ## `State.setPort` -/

@[simp] theorem State.setPort_ph (s : State) (v : List PortEvent) : (s.setPort v).ph = s.ph := rfl
@[simp] theorem State.setPort_osc (s : State) (v : List PortEvent) : (s.setPort v).osc = s.osc := rfl
@[simp] theorem State.setPort_env (s : State) (v : List PortEvent) : (s.setPort v).env = s.env := rfl
@[simp] theorem State.setPort_trig (s : State) (v : List PortEvent) : (s.setPort v).trig = s.trig := rfl
@[simp] theorem State.setPort_slew (s : State) (v : List PortEvent) : (s.setPort v).slew = s.slew := rfl
@[simp] theorem State.setPort_res (s : State) (v : List PortEvent) : (s.setPort v).res = s.res := rfl
@[simp] theorem State.setPort_port (s : State) (v : List PortEvent) : (s.setPort v).port = v := rfl

/-! ## Writing the same field twice, and writing back what is there -/

@[simp] theorem State.setPh_setPh (s : State) (v w : PhUnit) : (s.setPh v).setPh w = s.setPh w := rfl
@[simp] theorem State.setPh_self (s : State) : s.setPh s.ph = s := rfl
@[simp] theorem State.setOsc_setOsc (s : State) (v w : OscUnit) : (s.setOsc v).setOsc w = s.setOsc w := rfl
@[simp] theorem State.setOsc_self (s : State) : s.setOsc s.osc = s := rfl
@[simp] theorem State.setEnv_setEnv (s : State) (v w : EnvUnit) : (s.setEnv v).setEnv w = s.setEnv w := rfl
@[simp] theorem State.setEnv_self (s : State) : s.setEnv s.env = s := rfl
@[simp] theorem State.setTrig_setTrig (s : State) (v w : TrigUnit) : (s.setTrig v).setTrig w = s.setTrig w := rfl
@[simp] theorem State.setTrig_self (s : State) : s.setTrig s.trig = s := rfl
@[simp] theorem State.setSlew_setSlew (s : State) (v w : SlewUnit) : (s.setSlew v).setSlew w = s.setSlew w := rfl
@[simp] theorem State.setSlew_self (s : State) : s.setSlew s.slew = s := rfl
@[simp] theorem State.setRes_setRes (s : State) (v w : Option Word) : (s.setRes v).setRes w = s.setRes w := rfl
@[simp] theorem State.setRes_self (s : State) : s.setRes s.res = s := rfl
@[simp] theorem State.setPort_setPort (s : State) (v w : List PortEvent) : (s.setPort v).setPort w = s.setPort w := rfl
@[simp] theorem State.setPort_self (s : State) : s.setPort s.port = s := rfl

/-! ## Units and phasors -/

@[simp] theorem Phasor.setPhase_phase (p : Phasor) (v : Word) : (p.setPhase v).phase = v := rfl
@[simp] theorem Phasor.setPhase_delta (p : Phasor) (v : Word) : (p.setPhase v).delta = p.delta := rfl
@[simp] theorem Phasor.setDelta_phase (p : Phasor) (v : Word) : (p.setDelta v).phase = p.phase := rfl
@[simp] theorem Phasor.setDelta_delta (p : Phasor) (v : Word) : (p.setDelta v).delta = v := rfl
@[simp] theorem PhUnit.setPhasor_phasor (u : PhUnit) (p : Phasor) : (u.setPhasor p).toPhasor = p := rfl
@[simp] theorem PhUnit.setPhasor_loop (u : PhUnit) (p : Phasor) : (u.setPhasor p).loop = u.loop := rfl
@[simp] theorem OscUnit.setPhasor_phasor (u : OscUnit) (p : Phasor) : (u.setPhasor p).toPhasor = p := rfl
@[simp] theorem OscUnit.setPhasor_loop (u : OscUnit) (p : Phasor) : (u.setPhasor p).loop = u.loop := rfl
@[simp] theorem OscUnit.setPhasor_type (u : OscUnit) (p : Phasor) : (u.setPhasor p).type = u.type := rfl
@[simp] theorem OscUnit.setPhasor_width (u : OscUnit) (p : Phasor) : (u.setPhasor p).width = u.width := rfl

end Sys2Proof.Machine
end

