-- ==== Sys2Proof/Laws/Ops.lean ====
section
/-! SUPPORT. One specification lemma per shared operation: what it computes, as integers within the register's width. -/

namespace Sys2Proof.Machine

/-! ## Constants -/

theorem phaseMax_eq : Config.phaseMax = 2147483647 := rfl
theorem sampleDelta_eq : Config.sampleDelta = 53687 := rfl
theorem durNum_eq : Config.durNum = 53687000 := rfl
theorem freqMax_eq : Config.freqMax = 80000 := rfl
theorem ssfMax_eq : Config.ssfMax = 2147483647 := rfl

/-- The remainder R6 gives for the division that defines `SAMPLE_DELTA`. -/
theorem sampleDelta_remainder : Config.phaseMax % Config.sampleRate = 3647 := rfl

/-- `FREQ_MAX` is the largest frequency whose increment fits 32 bits (R8). -/
theorem freqMax_largest :
    Config.sampleDelta * Config.freqMax < 2 ^ 32 ∧ 2 ^ 32 < Config.sampleDelta * (Config.freqMax + 1) := by decide

/-- The reset increments of `ENV` are the default durations' (R47, D17). -/
theorem reset_env_deltas :
    State.reset.env.attack.delta.toNat = durToDelta Config.envAttackMs ∧
      State.reset.env.decay.delta.toNat = durToDelta Config.envDecayMs := by decide

/-! ## How an operation ends -/

@[simp] theorem returnNone_next (s t : State) : returnNone s = .next t ↔ t = s.setRes none := by
  simp only [returnNone, Host.Outcome.next.injEq]; exact eq_comm

@[simp] theorem returnValue_next (s t : State) (v : Int) :
    returnValue s v = .next t ↔ t = s.setRes (some (resPattern v)) := by
  simp only [returnValue, Host.Outcome.next.injEq]; exact eq_comm

@[simp] theorem returnNone_refused (s : State) (r : Refusal) : ¬ returnNone s = .refused r := nofun

@[simp] theorem returnValue_refused (s : State) (v : Int) (r : Refusal) : ¬ returnValue s v = .refused r := nofun

@[simp] theorem refuseOperand_next (t : State) : ¬ refuseOperand = .next t := nofun

/-- A non-negative result below 2^31 reads back as itself (R87). -/
theorem resPattern_toInt {v : Int} (h₀ : 0 ≤ v) (h₁ : v < 2 ^ 31) : (resPattern v).toInt = v := by
  unfold resPattern
  rw [BitVec.toInt_ofInt]
  exact Int.bmod_eq_of_le (by omega) (by omega)

theorem resPattern_natCast (n : Nat) : resPattern (n : Int) = BitVec.ofNat 32 n := by
  simp [resPattern]

/-! ## Rate conversions -/

/-- `FreqToDelta` of a legal frequency fits the register (R111, R8). -/
theorem freqDelta_toNat {freq : Word} (h : freq.toNat ≤ Config.freqMax) :
    (freqDelta freq).toNat = Config.sampleDelta * freq.toNat := by
  have := h
  simp only [freqDelta, freqToDelta, freqValue, BitVec.toNat_ofNat, sampleDelta_eq, freqMax_eq] at *
  omega

/-- `DurToDelta` is at most `DUR_NUM` (R112). -/
theorem durToDelta_le (ms : Int) : durToDelta ms ≤ Config.durNum := by
  unfold durToDelta
  split
  · exact Nat.zero_le _
  · exact Nat.div_le_self _ _

/-- `DurToDelta` fits the register (R112). -/
theorem durDelta_toNat (ms : Word) : (durDelta ms).toNat = durToDelta ms.toInt := by
  have h := durToDelta_le ms.toInt
  simp only [durDelta, msValue, BitVec.toNat_ofNat, durNum_eq] at *
  omega

/-! ## The phasor -/

theorem tickSum_lt (p : Phasor) : tickSum p < 2 ^ 33 := by
  have h₁ := p.phase.isLt
  have h₂ := p.delta.isLt
  simp only [tickSum]
  omega

@[simp] theorem advance_delta (loop : Bool) (wrap : Nat → Nat) (p : Phasor) :
    (advance loop wrap p).delta = p.delta := rfl

@[simp] theorem advanceOneShot_delta (p : Phasor) : (advanceOneShot p).delta = p.delta := rfl

@[simp] theorem resetPhase_phase (p : Phasor) : (resetPhase p).phase = 0 := rfl

@[simp] theorem resetPhase_delta (p : Phasor) : (resetPhase p).delta = p.delta := rfl

/-- An advance writes the next phase itself where that fits the register (R113). -/
theorem advance_phase_toNat {loop : Bool} {wrap : Nat → Nat} {p : Phasor}
    (h : nextPhase loop wrap (tickSum p) < 2 ^ 32) :
    (advance loop wrap p).phase.toNat = nextPhase loop wrap (tickSum p) := by
  simp only [advance, Phasor.setPhase_phase, BitVec.toNat_ofNat]
  omega

/-- A one-shot advance clamps: the smaller of the sum and `PHASE_MAX` (R113). -/
theorem advanceOneShot_phase (p : Phasor) :
    (advanceOneShot p).phase.toNat = min (tickSum p) Config.phaseMax := by
  have h : nextPhase false phWrap (tickSum p) = min (tickSum p) Config.phaseMax := by
    simp only [nextPhase, Bool.false_eq_true, if_false]; split <;> omega
  have hlt : nextPhase false phWrap (tickSum p) < 2 ^ 32 := by
    have := Nat.min_le_right (tickSum p) Config.phaseMax
    rw [h]
    exact lt_of_le_of_lt this (by decide)
  rw [advanceOneShot, advance_phase_toNat hlt, h]

/-- The multi-wrap loop with enough fuel is the remainder (R131). -/
theorem oscWrapLoop_mod (fuel sum : Nat) (h : sum < (fuel + 1) * Config.phaseMax) :
    oscWrapLoop fuel sum = sum % Config.phaseMax := by
  induction fuel generalizing sum with
  | zero => simp only [oscWrapLoop]; rw [Nat.mod_eq_of_lt (by omega)]
  | succ n ih =>
    simp only [oscWrapLoop]
    split
    · rename_i hle
      rw [ih _ (by simp only [Nat.add_mul] at *; omega), ← Nat.mod_eq_sub_mod hle]
    · rw [Nat.mod_eq_of_lt (by omega)]

/-- The multi-wrap loop of any two 32-bit patterns ends below `PHASE_MAX` (R131). -/
theorem oscWrap_mod {sum : Nat} (h : sum < 2 ^ 33) : oscWrap sum = sum % Config.phaseMax :=
  oscWrapLoop_mod 4 sum (by simp only [phaseMax_eq]; omega)

/-- Whether R114 gives a tick a meaning, in the terms of U1. -/
theorem phTickSpecified_iff (loop : Bool) (p : Phasor) :
    phTickSpecified loop p = true ↔ ¬ (loop = true ∧ 2 * Config.phaseMax < tickSum p) := by
  unfold phTickSpecified phWrap
  rw [phaseMax_eq]
  cases loop
  · simp
  · simp only [Bool.not_eq_true', Bool.and_eq_false_iff, decide_eq_false_iff_not, Bool.true_eq_false, false_or,
      true_and]
    omega

/-- The ramp value of a phase in range is at most 127 (R110). -/
theorem phasorOut_le {p : Phasor} (h : p.phase.toNat ≤ Config.phaseMax) : phasorOut p ≤ 127 := by
  simp only [phasorOut, Config.phShift, Nat.shiftRight_eq_div_pow, phaseMax_eq] at *
  omega

/-- The Osc intermediate of a phase in range is at most 255 (R130). -/
theorem oscOut_le {p : Phasor} (h : p.phase.toNat ≤ Config.phaseMax) : oscOut p ≤ 255 := by
  simp only [oscOut, Config.oscShift, Nat.shiftRight_eq_div_pow, phaseMax_eq] at *
  omega

/-! ## Levels -/

/-- The crossfade of a ramp value in range is the natural-number formula of R181. -/
theorem lerp_natCast {a b i : Nat} (h : i ≤ 127) :
    lerp a b i = ((a * (127 - i)) >>> 7 + (b * i) >>> 7 : Nat) := by
  obtain ⟨j, rfl⟩ : ∃ j, i = 127 - j := ⟨127 - i, by omega⟩
  have hj : (127 : Int) - ((127 - j : Nat) : Int) = ((127 - (127 - j) : Nat) : Int) := by omega
  simp only [lerp, Config.outMax, Config.slewShift, Int.shiftRight_eq_div_pow, Nat.shiftRight_eq_div_pow,
    Nat.cast_ofNat, hj]
  norm_cast

end Sys2Proof.Machine
end

