-- ==== Sys2Proof/Laws/Exec.lean ====
section
/-! SUPPORT. The cases of the meanings that branch, one lemma each, so that no proof unfolds a meaning; and what a unit
update leaves of the other units. -/

namespace Sys2Proof.Machine

/-- `PH.PROCESS` where R114 gives it a meaning. -/
theorem exec_phProcess_specified {s : State} (h : phTickSpecified s.ph.loop s.ph.toPhasor = true) :
    exec .phProcess s =
      returnValue (s.setPh (s.ph.setPhasor (advance s.ph.loop phWrap s.ph.toPhasor))) (phasorOut s.ph.toPhasor) :=
  if_pos h

/-- `PH.PROCESS` where R114 gives it none. -/
theorem exec_phProcess_overwrap {s : State} (h : ¬ phTickSpecified s.ph.loop s.ph.toPhasor = true) :
    exec .phProcess s = .refused .phOverwrap :=
  if_neg h

/-- `PH.SETFREQ` with a legal operand. -/
theorem exec_phSetfreq_legal {s : State} {freq : Word} (h : freqLegal freq = true) :
    exec (.phSetfreq freq) s =
      returnNone (s.setPh (s.ph.setPhasor (s.ph.toPhasor.setDelta (freqDelta freq)))) :=
  if_pos h

/-- `PH.SETFREQ` with a reserved operand. -/
theorem exec_phSetfreq_reserved {s : State} {freq : Word} (h : ¬ freqLegal freq = true) :
    exec (.phSetfreq freq) s = .refused (.reserved .operand) :=
  if_neg h

/-- `OSC.SETFREQ` with a legal operand. -/
theorem exec_oscSetfreq_legal {s : State} {freq : Word} (h : freqLegal freq = true) :
    exec (.oscSetfreq freq) s =
      returnNone (s.setOsc (s.osc.setPhasor (s.osc.toPhasor.setDelta (freqDelta freq)))) :=
  if_pos h

/-- `OSC.SETFREQ` with a reserved operand. -/
theorem exec_oscSetfreq_reserved {s : State} {freq : Word} (h : ¬ freqLegal freq = true) :
    exec (.oscSetfreq freq) s = .refused (.reserved .operand) :=
  if_neg h

/-- `ENV.PROCESS` once the attack is at end. -/
theorem exec_envProcess_atEnd {s : State} (h : isAtEnd s.env.attack = true) :
    exec .envProcess s =
      returnValue (s.setEnv { s.env with decay := advanceOneShot s.env.decay })
        (min Config.outMax (Config.outMax - phasorOut s.env.decay : Int)) :=
  if_pos h

/-- `ENV.PROCESS` while the attack is not at end. -/
theorem exec_envProcess_attacking {s : State} (h : ¬ isAtEnd s.env.attack = true) :
    exec .envProcess s =
      returnValue (s.setEnv { s.env with attack := advanceOneShot s.env.attack })
        (min (phasorOut s.env.attack : Int) Config.outMax) :=
  if_neg h

/-! ## What an update of one unit keeps -/

theorem othersKept_ph (s : State) (u : PhUnit) (r : Option Word) : OthersKept .ph s ((s.setPh u).setRes r) :=
  ⟨(absurd rfl ·), fun _ => rfl, fun _ => rfl, fun _ => rfl, fun _ => rfl, rfl⟩

theorem othersKept_osc (s : State) (u : OscUnit) (r : Option Word) : OthersKept .osc s ((s.setOsc u).setRes r) :=
  ⟨fun _ => rfl, (absurd rfl ·), fun _ => rfl, fun _ => rfl, fun _ => rfl, rfl⟩

theorem othersKept_env (s : State) (u : EnvUnit) (r : Option Word) : OthersKept .env s ((s.setEnv u).setRes r) :=
  ⟨fun _ => rfl, fun _ => rfl, (absurd rfl ·), fun _ => rfl, fun _ => rfl, rfl⟩

theorem othersKept_trig (s : State) (u : TrigUnit) (r : Option Word) : OthersKept .trig s ((s.setTrig u).setRes r) :=
  ⟨fun _ => rfl, fun _ => rfl, fun _ => rfl, (absurd rfl ·), fun _ => rfl, rfl⟩

theorem othersKept_slew (s : State) (u : SlewUnit) (r : Option Word) : OthersKept .slew s ((s.setSlew u).setRes r) :=
  ⟨fun _ => rfl, fun _ => rfl, fun _ => rfl, fun _ => rfl, (absurd rfl ·), rfl⟩

end Sys2Proof.Machine
end

