-- ==== Sys2Proof/Laws/PerInstr.lean ====
section
/-! SUPPORT. Statements made per operation, one lemma for each constructor of `Instr`. Family `RowDecodes`: the row of the
table that an operation belongs to (R84) reads its operand pattern back (R85). -/

namespace Sys2Proof.Laws.RowDecodes

/-- The row of `i`'s unit and kind, given `i`'s operand pattern, answers `i` (R84, R85, R91). -/
def Statement (i : Instr) : Prop := i.wellFormed = true → decodeRow i.unit i.op i.arg = .ok i

theorem bool_form (mk : Bool → Instr) (b : Bool) : formBool (if b then 1 else 0) mk = .ok (mk b) := by
  cases b <;> rfl

theorem octet_form (mk : Octet → Instr) (v : Octet) : formU8 (v.setWidth 32) mk = .ok (mk v) := by
  have h₁ : (v.setWidth 32).extractLsb' 8 24 = 0 := by ext i hi; simp
  have h₂ : (v.setWidth 32).extractLsb' 0 8 = v := by
    apply BitVec.eq_of_toNat_eq
    have := v.isLt
    rw [BitVec.extractLsb'_toNat, BitVec.toNat_setWidth, Nat.shiftRight_zero]
    omega
  simp [formU8, h₁, h₂]

theorem septet_form (mk : Septet → Instr) (v : Septet) : formU7 (v.setWidth 32) mk = .ok (mk v) := by
  have h₁ : (v.setWidth 32).extractLsb' 7 25 = 0 := by ext i hi; simp
  have h₂ : (v.setWidth 32).extractLsb' 0 7 = v := by
    apply BitVec.eq_of_toNat_eq
    have := v.isLt
    rw [BitVec.extractLsb'_toNat, BitVec.toNat_setWidth, Nat.shiftRight_zero]
    omega
  simp [formU7, h₁, h₂]

theorem freq_form (mk : Word → Instr) {v : Word} (h : freqLegal v = true) : formFreq v mk = .ok (mk v) := by
  simp [formFreq, h]

theorem phProcess : Statement .phProcess := fun _ => rfl
theorem phReset : Statement .phReset := fun _ => rfl
theorem phSetfreq (freq : Word) : Statement (.phSetfreq freq) := fun h => freq_form _ h
theorem phSetdur (ms : Word) : Statement (.phSetdur ms) := fun _ => rfl
theorem phRunning : Statement .phRunning := fun _ => rfl
theorem phIsatend : Statement .phIsatend := fun _ => rfl
theorem phSetloop (b : Bool) : Statement (.phSetloop b) := fun _ => bool_form _ b
theorem oscProcess : Statement .oscProcess := fun _ => rfl
theorem oscReset : Statement .oscReset := fun _ => rfl
theorem oscSetfreq (freq : Word) : Statement (.oscSetfreq freq) := fun h => freq_form _ h
theorem oscSetdur (ms : Word) : Statement (.oscSetdur ms) := fun _ => rfl
theorem oscRunning : Statement .oscRunning := fun _ => rfl
theorem oscIsatend : Statement .oscIsatend := fun _ => rfl
theorem oscSetloop (b : Bool) : Statement (.oscSetloop b) := fun _ => bool_form _ b
theorem oscSettype (t : Octet) : Statement (.oscSettype t) := fun _ => octet_form _ t
theorem oscSetwidth (w : Octet) : Statement (.oscSetwidth w) := fun _ => octet_form _ w
theorem envProcess : Statement .envProcess := fun _ => rfl
theorem envReset : Statement .envReset := fun _ => rfl
theorem envSetattack (ms : Word) : Statement (.envSetattack ms) := fun _ => rfl
theorem envSetdecay (ms : Word) : Statement (.envSetdecay ms) := fun _ => rfl
theorem trigProcess : Statement .trigProcess := fun _ => rfl
theorem trigReset : Statement .trigReset := fun _ => rfl
theorem trigSetwidth (n : Word) : Statement (.trigSetwidth n) := fun _ => rfl
theorem trigSetamp (a : Septet) : Statement (.trigSetamp a) := fun _ => septet_form _ a
theorem slewProcess : Statement .slewProcess := fun _ => rfl
theorem slewSet (x : Septet) : Statement (.slewSet x) := fun _ => septet_form _ x
theorem slewSetslew (ms : Word) : Statement (.slewSetslew ms) := fun _ => rfl

end Sys2Proof.Laws.RowDecodes
end

