-- ==== Sys2Proof/Laws/Step.lean ====
section
/-! SUPPORT. What a step can do, said once, and the laws of sequences of operations. -/

namespace Sys2Proof.Machine

/-- With no event pending a step changes nothing (R67, R231). -/
theorem step_idle {s : State} (h : s.port = []) : step s = .next s := by
  simp [step, takeEvent, h]

/-- With an event pending a step takes it from the port and performs it. -/
theorem step_event {s : State} {e : PortEvent} {es : List PortEvent} (h : s.port = e :: es) :
    step s = performEvent e (s.setPort es) := by
  simp [step, takeEvent, h]

/-- What a step that answers a next state did. -/
theorem step_next_cases {s t : State} (h : step s = .next t) :
    (s.port = [] ∧ t = s) ∨
    (∃ es, s.port = .hwReset :: es ∧ t = State.reset.setPort es) ∨
    (∃ w es i, s.port = .opw w :: es ∧ decode w = .ok i ∧ exec i (s.setPort es) = .next t) := by
  cases hp : s.port with
  | nil => rw [step_idle hp] at h; exact .inl ⟨rfl, by cases h; rfl⟩
  | cons e es =>
    rw [step_event hp] at h
    cases e with
    | hwReset => simp only [performEvent, Host.Outcome.next.injEq] at h; exact .inr (.inl ⟨es, rfl, h.symm⟩)
    | opwUnderReset w => exact absurd h nofun
    | opw w =>
      simp only [performEvent, performWord] at h
      split at h
      · rename_i i hi; exact .inr (.inr ⟨w, es, i, rfl, hi, h⟩)
      · exact absurd h nofun

/-! ## Runs of the machine and sequences of operations -/

@[simp] theorem core_run_zero (s : State) : Host.Core.run core 0 s = .next s := rfl

/-- A run whose first step completes goes on from its next state. -/
theorem core_run_succ {s t : State} (n : Nat) (h : step s = .next t) :
    Host.Core.run core (n + 1) s = Host.Core.run core n t := by
  simp only [Host.Core.run, show core.step s = .next t from h]

/-- A run whose first step is refused is refused. -/
theorem core_run_refused {s : State} {r : Refusal} (n : Nat) (h : step s = .refused r) :
    Host.Core.run core (n + 1) s = .refused r := by
  simp only [Host.Core.run, show core.step s = .refused r from h]

@[simp] theorem execList_nil (s : State) : execList [] s = .next s := rfl

/-- The first operation of a sequence completes, and the rest runs from its next state. -/
theorem execList_cons {i : Instr} {is : List Instr} {s t : State} (h : exec i s = .next t) :
    execList (i :: is) s = execList is t := by
  simp [execList, h]

/-- A sequence that completes completed its first operation. -/
theorem execList_cons_next {i : Instr} {is : List Instr} {s u : State} (h : execList (i :: is) s = .next u) :
    ∃ t, exec i s = .next t ∧ execList is t = .next u := by
  simp only [execList] at h
  split at h
  · exact ⟨_, by assumption, h⟩
  · exact absurd h nofun
  · exact absurd h nofun

/-- A sequence that completes is split anywhere (R67). -/
theorem execList_append {is js : List Instr} {s t : State} (h : execList is s = .next t) :
    execList (is ++ js) s = execList js t := by
  induction is generalizing s with
  | nil => simp only [execList_nil, Host.Outcome.next.injEq] at h; subst h; rfl
  | cons i is ih =>
    obtain ⟨u, hu, hrest⟩ := execList_cons_next h
    rw [List.cons_append, execList_cons hu, ih hrest]

/-- One more time of the same operation. -/
theorem execTimes_succ {i : Instr} {n : Nat} {s t : State} (h : execTimes i n s = .next t) :
    execTimes i (n + 1) s = execList [i] t := by
  unfold execTimes at *
  rw [List.replicate_succ', execList_append h]

end Sys2Proof.Machine
end

