-- ==== Sys2Proof/Tests/Slice0.lean ====
section
/-! SUPPORT. Tests of the model against the vectors of `95_test_vectors.md` and the worked examples of the rules, and for
every obligation with hypotheses a witness that meets them. Every expected number is the spec's. -/

namespace Sys2Proof.Tests

open Sys2Proof.Machine

/-! ## Small states -/

/-- The reset state with the `PH` unit given. -/
def phState (phase delta : Word) (loop : Bool) : State := State.reset.setPh ⟨⟨phase, delta⟩, loop⟩

/-- The reset state with the `OSC` unit given. -/
def oscState (phase delta : Word) (loop : Bool) (type width : Octet) : State :=
  State.reset.setOsc ⟨⟨phase, delta⟩, loop, type, width⟩

/-- The reset state with the `ENV` unit given: attack phase, attack delta, decay phase, decay delta. -/
def envState (ap ad dp dd : Word) : State := State.reset.setEnv ⟨⟨ap, ad⟩, ⟨dp, dd⟩⟩

/-- The reset state with the `TRIG` unit given. -/
def trigState (ssf width : Word) (amp : Septet) : State := State.reset.setTrig ⟨ssf, width, amp⟩

/-- The reset state with the `SLEW` unit given. -/
def slewState (phase delta : Word) (fromLevel toLevel lastVal : Octet) : State :=
  State.reset.setSlew ⟨⟨phase, delta⟩, fromLevel, toLevel, lastVal⟩

/-- What one looks at in the next state, if there is one. -/
def after {α : Type} (r : Result) (look : State → α) : Option α :=
  match r with
  | .next t => some (look t)
  | .fault _ => none
  | .refused _ => none

/-- The refusal, if there is one. -/
def refusalOf (r : Result) : Option Refusal :=
  match r with
  | .next _ => none
  | .fault _ => none
  | .refused why => some why

/-- The words of a list decode to these operations. -/
def decodesTo (l : List (OpWord × Instr)) : Bool := l.all fun p => decide (decode p.1 = .ok p.2)

/-! ## Well-formedness (R85) -/

theorem test_wellFormed_refuses_phSetfreq : (Instr.phSetfreq 80001).wellFormed = false := by decide
theorem test_wellFormed_refuses_oscSetfreq : (Instr.oscSetfreq 80001).wellFormed = false := by decide
theorem test_wellFormed_accepts_limit :
    (Instr.phSetfreq 80000).wellFormed = true ∧ (Instr.oscSetfreq 80000).wellFormed = true := by decide

/-! ## Decoding: words written out from R81 and R84 as UNIT, OP and ARG digits (vectors X1 to X30, programs G1 to G6) -/

theorem test_decode_ph : decodesTo
    [(0x0000000000, .phProcess), (0x0100000000, .phReset), (0x02000001B8, .phSetfreq 440),
     (0x03FFFFFFFB, .phSetdur (BitVec.ofInt 32 (-5))), (0x0400000000, .phRunning), (0x0500000000, .phIsatend),
     (0x0600000001, .phSetloop true)] = true := by decide

theorem test_decode_osc : decodesTo
    [(0x1000000000, .oscProcess), (0x1100000000, .oscReset), (0x1200001388, .oscSetfreq 5000),
     (0x13000003E8, .oscSetdur 1000), (0x1400000000, .oscRunning), (0x1500000000, .oscIsatend),
     (0x1600000000, .oscSetloop false), (0x17000000FF, .oscSettype 255), (0x1800000040, .oscSetwidth 64)] = true := by
  decide

theorem test_decode_env : decodesTo
    [(0x2000000000, .envProcess), (0x2100000000, .envReset), (0x2A00000005, .envSetattack 5),
     (0x2B00000096, .envSetdecay 150)] = true := by decide

theorem test_decode_trig : decodesTo
    [(0x3000000000, .trigProcess), (0x3100000000, .trigReset), (0x38000000A0, .trigSetwidth 160),
     (0x390000007F, .trigSetamp 127)] = true := by decide

theorem test_decode_slew : decodesTo
    [(0x4000000000, .slewProcess), (0x4C00000064, .slewSet 100), (0x4D00000001, .slewSetslew 1)] = true := by decide

/-- Extreme operands: X3, X6, X21 (`TRIG.SETWIDTH -1`). -/
theorem test_decode_extremes : decodesTo
    [(0x0200013880, .phSetfreq 80000), (0x0380000000, .phSetdur (BitVec.ofInt 32 (-2147483648))),
     (0x38FFFFFFFF, .trigSetwidth (BitVec.ofInt 32 (-1)))] = true := by decide

/-- X4, X8, X9, X13, X23: a reserved operand of each form that has one. -/
theorem test_decode_reserved_operands :
    ([0x0200013881, 0x0600000002, 0x0000000001, 0x1700000100, 0x3900000080] : List OpWord).all
      (fun w => decide (decode w = .reserved .operand)) = true := by decide

/-- X10, X17, X18, X26: pairs with no row. -/
theorem test_decode_reserved_pairs :
    ([0x0700000000, 0x2200000064, 0x2400000000, 0x4100000000] : List OpWord).all
      (fun w => decide (decode w = .reserved .pair)) = true := by decide

/-- X27 to X30: reserved units and op codes. -/
theorem test_decode_reserved_codes :
    decode 0x5000000000 = .reserved .unit ∧ decode 0xF000000000 = .reserved .unit ∧
      decode 0x0E00000000 = .reserved .op ∧ decode 0x4F00000000 = .reserved .op := by decide

/-- The host's numbering: X20 as a table word, and a word cut to fewer bits. -/
theorem test_decodeTableWord :
    decodeTableWord 40 0x38000000A0 = some (.trigSetwidth 160) ∧ decodeTableWord 40 0x4100000000 = none := by decide

/-! ## `PH` (vectors P1 to P12) -/

/-- P3, operation 2. -/
theorem test_phProcess_advances : after (exec .phProcess (phState 0x1FFFFC70 0x1FFFFC70 true))
    (fun t => (t.res, t.ph.phase)) = some (some 31, 0x3FFFF8E0) := by decide

/-- P10, operation 3 at 60000 Hz: no meaning, refused. -/
theorem test_phProcess_overwrap :
    refusalOf (exec .phProcess (phState 0x7FFFD542 0xBFFFEAA0 true)) = some .phOverwrap := by decide

/-- P12. -/
theorem test_phReset : after (exec .phReset (phState 0x7FFFFFFF 53687000 false))
    (fun t => (t.res, t.ph)) = some (none, ⟨⟨0, 53687000⟩, false⟩) := by decide

/-- P1 at 440 and at 80000 hertz. -/
theorem test_phSetfreq : after (exec (.phSetfreq 440) State.reset) (fun t => t.ph.delta) = some 0x01687288 ∧
    after (exec (.phSetfreq 80000) State.reset) (fun t => t.ph.delta) = some 0xFFFFE380 := by decide

/-- P2 at 3 ms and at 53687001 ms. -/
theorem test_phSetdur : after (exec (.phSetdur 3) State.reset) (fun t => t.ph.delta) = some 17895666 ∧
    after (exec (.phSetdur 53687001) (phState 0 7 false)) (fun t => t.ph.delta) = some 0 := by decide

/-- P2 at -5 ms. -/
theorem test_phSetdur_negative :
    after (exec (.phSetdur 0xFFFFFFFB) (phState 0 7 false)) (fun t => t.ph.delta) = some 0 := by decide

/-- R119's example: a phasor at end with an increment still runs. -/
theorem test_phRunning : after (exec .phRunning (phState 0x7FFFFFFF 53687000 false)) (fun t => t.res) = some (some 1) ∧
    after (exec .phRunning (phState 5 0 true)) (fun t => t.res) = some (some 0) := by decide

/-- R120's examples. -/
theorem test_phIsatend : after (exec .phIsatend (phState 0x7FFFF1C0 1 false)) (fun t => t.res) = some (some 0) ∧
    after (exec .phIsatend (phState 0x7FFFFFFF 0 false)) (fun t => t.res) = some (some 1) := by decide

/-- R123's example. -/
theorem test_phSetloop :
    after (exec (.phSetloop true) (phState 3 4 false)) (fun t => t.ph) = some ⟨⟨3, 4⟩, true⟩ := by decide

/-! ## `OSC` (vectors O1 to O9) -/

/-- O4, operation 3: two subtractions, where `PH` is UNSPECIFIED. -/
theorem test_oscProcess_multiWrap : after (exec .oscProcess (oscState 0x7FFFD542 0xBFFFEAA0 true 0 0))
    (fun t => (t.res, t.osc.phase)) = some (some 127, 0x3FFFBFE4) := by decide

/-- O1, operation 1: the triangle starts at 128, and the pulse of width 64 ends between `out` 63 and `out` 95. -/
theorem test_oscProcess_shapes :
    after (exec .oscProcess (oscState 0 0x0FFFFE38 true 1 0)) (fun t => t.res) = some (some 128) ∧
    after (exec .oscProcess (oscState 0x1FFFFC70 0x0FFFFE38 true 2 64)) (fun t => t.res) = some (some 127) ∧
    after (exec .oscProcess (oscState 0x2FFFFAA8 0x0FFFFE38 true 2 64)) (fun t => t.res) = some (some 0) := by decide

/-- R134's example. -/
theorem test_oscReset : after (exec .oscReset (oscState 0x12345678 9 true 2 64))
    (fun t => t.osc) = some ⟨⟨0, 9⟩, true, 2, 64⟩ := by decide

/-- R137's example. -/
theorem test_oscSetfreq :
    after (exec (.oscSetfreq 5000) State.reset) (fun t => t.osc.delta) = some 0x0FFFFE38 := by decide

/-- R138's example. -/
theorem test_oscSetdur : after (exec (.oscSetdur 1000) State.reset) (fun t => t.osc.delta) = some 53687 := by decide

/-- R135's example. -/
theorem test_oscRunning :
    after (exec .oscRunning (oscState 9 0 true 0 0)) (fun t => t.res) = some (some 0) ∧
    after (exec .oscRunning (oscState 0 1 true 0 0)) (fun t => t.res) = some (some 1) := by decide

/-- R136's example. -/
theorem test_oscIsatend :
    after (exec .oscIsatend (oscState 0x7FFFFFFF 0 false 0 0)) (fun t => t.res) = some (some 1) := by decide

/-- R139's example. -/
theorem test_oscSetloop :
    after (exec (.oscSetloop true) (oscState 1 2 false 3 4)) (fun t => t.osc) = some ⟨⟨1, 2⟩, true, 3, 4⟩ := by decide

/-- O9. -/
theorem test_oscSettype : after (exec (.oscSettype 1) (oscState 0x4FFFF718 0x0FFFFE38 true 0 7))
    (fun t => t.osc) = some ⟨⟨0x4FFFF718, 0x0FFFFE38⟩, true, 1, 7⟩ := by decide

/-- R141's example. -/
theorem test_oscSetwidth :
    after (exec (.oscSetwidth 64) (oscState 1 2 false 3 4)) (fun t => t.osc) = some ⟨⟨1, 2⟩, false, 3, 64⟩ := by decide

/-! ## `ENV` (vectors V3, V4) -/

/-- V3: the attack clamps and the decay is untouched. -/
theorem test_envProcess_attack : after (exec .envProcess (envState 0x7FFFF1C0 10737400 0 357913))
    (fun t => (t.res, t.env)) = some (some 127, ⟨⟨0x7FFFFFFF, 10737400⟩, ⟨0, 357913⟩⟩) := by decide

/-- V3: mid-decay. -/
theorem test_envProcess_decay : after (exec .envProcess (envState 0x7FFFFFFF 10737400 0x40000000 357913))
    (fun t => (t.res, t.env)) = some (some 63, ⟨⟨0x7FFFFFFF, 10737400⟩, ⟨0x40057619, 357913⟩⟩) := by decide

/-- V4. -/
theorem test_envReset : after (exec .envReset (envState 0x7FFFFFFF 10737400 0x40000000 357913))
    (fun t => t.env) = some ⟨⟨0, 10737400⟩, ⟨0, 357913⟩⟩ := by decide

/-- G3, line 1. -/
theorem test_envSetattack : after (exec (.envSetattack 1) State.reset)
    (fun t => t.env) = some ⟨⟨0, 0x033332D8⟩, ⟨0, 357913⟩⟩ := by decide

/-- G3, line 2. -/
theorem test_envSetdecay : after (exec (.envSetdecay 2) State.reset)
    (fun t => t.env) = some ⟨⟨0, 10737400⟩, ⟨0, 0x0199996C⟩⟩ := by decide

/-! ## `TRIG` (vectors T2 to T7) -/

/-- T3, operation 1, and T5 with width -1: the comparison is signed and uses the incremented counter. -/
theorem test_trigProcess_fires :
    after (exec .trigProcess (trigState 0xFFFFFFFF 3 100)) (fun t => (t.res, t.trig.ssf)) = some (some 100, 0) ∧
    after (exec .trigProcess (trigState 0xFFFFFFFF 0xFFFFFFFF 100)) (fun t => t.res) = some (some 0) := by decide

/-- T6: saturation. -/
theorem test_trigProcess_saturates :
    after (exec .trigProcess (trigState 0x7FFFFFFE 0x7FFFFFFF 5)) (fun t => (t.res, t.trig.ssf)) =
      some (some 0, 0x7FFFFFFF) ∧
    after (exec .trigProcess (trigState 0x7FFFFFFF 0x7FFFFFFF 5)) (fun t => (t.res, t.trig.ssf)) =
      some (some 0, 0x7FFFFFFF) := by decide

/-- R167's example. -/
theorem test_trigReset : after (exec .trigReset (trigState 0x7FFFFFFF 3 100))
    (fun t => (t.res, t.trig)) = some (none, ⟨0xFFFFFFFF, 3, 100⟩) := by decide

/-- R168's example. -/
theorem test_trigSetwidth :
    after (exec (.trigSetwidth 160) (trigState 4 3 100)) (fun t => t.trig) = some ⟨4, 160, 100⟩ := by decide

/-- R169's example. -/
theorem test_trigSetamp :
    after (exec (.trigSetamp 127) (trigState 4 3 100)) (fun t => t.trig) = some ⟨4, 3, 127⟩ := by decide

/-! ## `SLEW` (vectors S1 to S9) -/

/-- S9, and S1: the snap writes `lastVal`. -/
theorem test_slewProcess :
    after (exec .slewProcess (slewState 0x40000000 53687000 0 100 0))
      (fun t => (t.res, t.slew.lastVal, t.slew.ph.phase)) = some (some 50, 50, 0x433332D8) ∧
    after (exec .slewProcess (slewState 0 0 0 100 0)) (fun t => (t.res, t.slew.lastVal)) = some (some 100, 100) := by
  decide

/-- S2: each product is truncated on its own. -/
theorem test_lerp : lerp 127 127 64 = 125 ∧ lerp 50 60 32 = 52 ∧ lerp 1 1 64 = 0 ∧ lerp 0 100 127 = 99 := by decide

/-- R183's example. -/
theorem test_slewSet : after (exec (.slewSet 20) (slewState 0x7FFFFFFF 53687000 0 100 99))
    (fun t => t.slew) = some ⟨⟨0, 53687000⟩, 99, 20, 99⟩ := by decide

/-- S8: a slew time of zero in mid-ramp leaves the phase. -/
theorem test_slewSetslew : after (exec (.slewSetslew 0) (slewState 0x1FFFFC70 53687000 0 100 21))
    (fun t => t.slew) = some ⟨⟨0x1FFFFC70, 0⟩, 0, 100, 21⟩ := by decide

/-! ## The port and the notation -/

/-- Z2 and U4: a reserved word and reset under a word are refused by name. -/
theorem test_step_refuses :
    refusalOf (step (State.reset.setPort [.opw 0x4100000000])) = some (.reserved .pair) ∧
    refusalOf (step (State.reset.setPort [.opwUnderReset 0])) = some .resetDuringOperation := by decide

/-- Z1: reset from the end state of G1, with an operation still to come. -/
theorem test_step_hardwareReset :
    after (step ((phState 0x3FFFEAA1 0x1FFFFC70 true).setPort [.hwReset, .opw 0])) id =
      some (State.reset.setPort [.opw 0]) := by decide

/-- R92's examples, and a hexadecimal operand with a comment. -/
theorem test_assemble :
    assembleLine "ENV.SETDECAY 150" = some 0x2B00000096 ∧ assembleLine "PH.SETDUR -5" = some 0x03FFFFFFFB ∧
    assembleLine "OSC.SETWIDTH 0x40 ; duty" = some 0x1800000040 := by decide

/-- R93, and two lines that are not one of the forms. -/
theorem test_assemble_other :
    assembleLine "TRIG.FIRE" = some 0x3100000000 ∧ assembleLine "TRIG.SETAMP 128" = none ∧
    assembleLine "SLEW.RESET" = none := by decide

/-! ## Witnesses: states and operands that meet the hypotheses of each obligation, at the boundaries of its clauses -/

/-- The reset state satisfies the range invariant. -/
theorem reset_inRange : State.reset.InRange := by
  constructor <;> decide

/-- The reset increments are reachable (R46, R47). -/
theorem reset_deltas : State.reset.DeltasReachable :=
  ⟨.inr (.inl rfl), .inr (.inl rfl), .inr ⟨5, by decide, by decide⟩, .inr ⟨150, by decide, by decide⟩, .inl rfl⟩

theorem witness_StepPerformsDecodedWord : ∃ (s : State) (w : OpWord) (es : List PortEvent) (i : Instr),
    s.port = .opw w :: es ∧ decode w = .ok i :=
  ⟨State.reset.setPort [.opw 0x4C00000064, .hwReset], 0x4C00000064, [.hwReset], .slewSet 100, rfl, by decide⟩

theorem witness_PresentedWordIsPerformedNext : (Instr.phSetfreq 80000).wellFormed = true := by decide

theorem witness_ReservedWordsAreRefused :
    ¬ Spec.LegalWord 0x0200013881 ∧ Spec.LegalWord 0x0200013880 := by
  unfold Spec.LegalWord
  decide

theorem witness_DecoderAgreesWithMaskTable : ∃ (w : OpWord) (i : Instr) (r : OpRow),
    decode w = .ok i ∧ r ∈ opTable ∧ r.accepts w = true :=
  ⟨0x0200013880, .phSetfreq 80000, ⟨.ph, .setfreq, 0x0200000000, 0xFF00000000, some 80000⟩, by decide, by decide,
    by decide⟩

theorem witness_DecodeOfEncodeIsTheOperation :
    (Instr.oscSetfreq 80000).wellFormed = true ∧ (Instr.slewSet 127).wellFormed = true := by decide

theorem witness_EncodeOfDecodeIsTheWord : decode 0x390000007F = .ok (.trigSetamp 127) := by decide

theorem witness_HardwareResetIsOneOrderedStep : ∃ (s s' : State) (w : OpWord) (es : List PortEvent),
    s.port = .hwReset :: es ∧ s'.port = .opwUnderReset w :: es :=
  ⟨(phState 1 2 true).setPort [.hwReset], State.reset.setPort [.opwUnderReset 0], 0, [], rfl, rfl⟩

theorem witness_BlockDoesNothingByItself : State.reset.port = [] := rfl

theorem witness_PortRunIsTheOperationsInOrder : ∃ (is : List Instr) (es : List PortEvent) (s : State),
    is ≠ [] ∧ (∀ i ∈ is, i.wellFormed = true) ∧ s.port = wordsOf is ++ es :=
  ⟨[.phSetloop true, .phSetfreq 60000, .phProcess], [.hwReset],
    State.reset.setPort (wordsOf [.phSetloop true, .phSetfreq 60000, .phProcess] ++ [.hwReset]),
    by decide, by decide, rfl⟩

/-- Both clauses, and both sides of the limit of 40000 hertz. -/
theorem witness_SetFrequencyWritesDelta :
    (80000 : Word).toNat ≤ 80000 ∧ 80000 < (80001 : Word).toNat ∧ (40000 : Word).toNat ≤ 40000 ∧
      ¬ (40001 : Word).toNat ≤ 40000 := by decide

/-- A looping phasor at the largest sum that is not refused, a one-shot one above it, a looping one just above it. -/
theorem witness_PhProcessReadsThenAdvances :
    (∀ s ∈ [phState 0x7FFFFFFF 0x7FFFFFFF true, phState 0x7FFFFFFF 0xFFFFFFFF false],
      ¬ (s.ph.loop = true ∧ 2 * Spec.PM < s.ph.phase.toNat + s.ph.delta.toNat)) ∧
    (phState 0x7FFFFFFF 0x80000000 true).ph.loop = true ∧
      2 * Spec.PM < (phState 0x7FFFFFFF 0x80000000 true).ph.phase.toNat +
        (phState 0x7FFFFFFF 0x80000000 true).ph.delta.toNat := by
  decide

theorem witness_OscWrapEndsInThreeTurns : 6442450942 ≤ 3 * Spec.PM + 1 := by decide

/-- One below the end of the attack, and at it. -/
theorem witness_EnvProcessAttackThenDecay :
    ((envState 0x7FFFFFFE 1 0 1).InRange ∧ (envState 0x7FFFFFFE 1 0 1).env.attack.phase.toNat < Spec.PM) ∧
    ((envState 0x7FFFFFFF 1 0 1).InRange ∧ Spec.PM ≤ (envState 0x7FFFFFFF 1 0 1).env.attack.phase.toNat) := by
  refine ⟨⟨?_, by decide⟩, ?_, by decide⟩ <;> constructor <;> decide

/-- Stopped, and at the smallest increment. -/
theorem witness_SlewProcessInterpolatesOrSnaps :
    (slewState 0x7FFFFFFF 0 127 127 127).InRange ∧ (slewState 0x7FFFFFFF 1 127 127 127).InRange := by
  constructor <;> constructor <;> decide

theorem witness_StepKeepsLegalValues : ∃ s t : State, s.InRange ∧ step s = .next t ∧ t ≠ s :=
  ⟨State.reset.setPort [.opw 0x3100000000], trigState 0xFFFFFFFF 0 0, by constructor <;> decide, rfl, by decide⟩

theorem witness_StepKeepsReachableDeltas : ∃ s t : State, s.DeltasReachable ∧ step s = .next t ∧ t ≠ s :=
  ⟨State.reset.setPort [.opw 0x0200013880], phState 0 0xFFFFE380 false,
    ⟨reset_deltas.ph, reset_deltas.osc, reset_deltas.attack, reset_deltas.decay, reset_deltas.slew⟩, rfl, by decide⟩

/-- Increments on both sides of `PHASE_MAX`. -/
theorem witness_ReachableDeltaBounds : (phState 0 0x8000C377 true).DeltasReachable ∧
    (phState 0 0x7FFFF1C0 true).DeltasReachable :=
  ⟨⟨.inl ⟨40001, by decide, by decide⟩, reset_deltas.osc, reset_deltas.attack, reset_deltas.decay, reset_deltas.slew⟩,
    ⟨.inl ⟨40000, by decide, by decide⟩, reset_deltas.osc, reset_deltas.attack, reset_deltas.decay, reset_deltas.slew⟩⟩

theorem witness_DecayWaitsForAttack : ∃ s t : State, s.DecayHeld ∧ step s = .next t ∧ t ≠ s :=
  ⟨(envState 0x7FFFFFFF 1 0 7).setPort [.opw 0x2000000000], (envState 0x7FFFFFFF 1 7 7).setRes (some 127),
    by unfold State.DecayHeld; decide, rfl, by decide⟩

/-- Each of the three transitions. -/
theorem witness_EnvelopeTransitions :
    (∃ t, (envState 0x7FFFFFFE 1 0 1).DecayHeld ∧ exec .envProcess (envState 0x7FFFFFFE 1 0 1) = .next t ∧
      envPhase t.env ≠ envPhase (envState 0x7FFFFFFE 1 0 1).env) ∧
    (∃ t, (envState 0x7FFFFFFF 1 0x7FFFFFFE 1).DecayHeld ∧
      exec .envProcess (envState 0x7FFFFFFF 1 0x7FFFFFFE 1) = .next t ∧
      envPhase t.env ≠ envPhase (envState 0x7FFFFFFF 1 0x7FFFFFFE 1).env) ∧
    (∃ t, (envState 0x7FFFFFFF 1 0x7FFFFFFF 1).DecayHeld ∧
      exec .envReset (envState 0x7FFFFFFF 1 0x7FFFFFFF 1) = .next t ∧
      envPhase t.env ≠ envPhase (envState 0x7FFFFFFF 1 0x7FFFFFFF 1).env) := by
  unfold State.DecayHeld
  exact ⟨⟨_, by decide, rfl, by decide⟩, ⟨_, by decide, rfl, by decide⟩, ⟨_, by decide, rfl, by decide⟩⟩

theorem witness_OperationsStayInTheirUnit : ∃ t, exec .oscProcess (oscState 0 5 true 1 0) = .next t := ⟨_, rfl⟩

/-- Two states that differ elsewhere: one pair completes, one is refused. -/
theorem witness_OperationsReadOnlyTheirUnit :
    AgreeOn .trig (phState 1 2 true) (phState 3 4 false) ∧
    AgreeOn .ph (phState 0x7FFFD542 0xBFFFEAA0 true) ((phState 0x7FFFD542 0xBFFFEAA0 true).setTrig ⟨1, 2, 3⟩) :=
  ⟨rfl, rfl⟩

theorem witness_DifferentUnitsCommute : ∃ s₁ s₂, Instr.phProcess.unit ≠ Instr.slewProcess.unit ∧
    exec .phProcess (phState 1 2 true) = .next s₁ ∧ exec .slewProcess s₁ = .next s₂ :=
  ⟨_, _, by decide, rfl, rfl⟩

theorem witness_SettersOfDifferentFieldsCommute :
    isSetter (.slewSetslew 1) = true ∧ isSetter (.slewSet 100) = true ∧
      sameField (.slewSetslew 1) (.slewSet 100) = false ∧ (Instr.slewSetslew 1).wellFormed = true ∧
      (Instr.slewSet 100).wellFormed = true := by decide

theorem witness_LaterRateSetterWins :
    (Instr.phSetfreq 80000).unit = (Instr.phSetdur 5).unit ∧
      ((Instr.phSetfreq 80000).op = .setfreq ∨ (Instr.phSetfreq 80000).op = .setdur) ∧
      ((Instr.phSetdur 5).op = .setfreq ∨ (Instr.phSetdur 5).op = .setdur) ∧
      (Instr.phSetfreq 80000).wellFormed = true := by decide

/-- One pure read and one write. -/
theorem witness_ReadsArePureAndWritesIdempotent :
    (∃ t, exec .phIsatend (phState 0x7FFFFFFF 0 false) = .next t ∧ isPureRead .phIsatend = true) ∧
    (∃ t, exec .trigReset State.reset = .next t ∧ isWrite .trigReset = true) :=
  ⟨⟨_, rfl, rfl⟩, _, rfl, rfl⟩

theorem witness_ResultsStayInRange : ∃ t, State.reset.InRange ∧ exec .slewProcess State.reset = .next t :=
  ⟨_, reset_inRange, rfl⟩

/-- Both sides: the triangle at `out` 0 and at `out` 1. -/
theorem witness_OscExceedsOnlyOnTriangleStart :
    (∃ t, (oscState 0x007FFFFF 1 true 1 0).InRange ∧ exec .oscProcess (oscState 0x007FFFFF 1 true 1 0) = .next t ∧
      t.res = some 128) ∧
    (∃ t, (oscState 0x00800000 1 true 1 0).InRange ∧ exec .oscProcess (oscState 0x00800000 1 true 1 0) = .next t ∧
      t.res = some 127) :=
  ⟨⟨_, by constructor <;> decide, rfl, by decide⟩, _, by constructor <;> decide, rfl, by decide⟩

theorem witness_EveryOperationCompletes : (Instr.phProcess).wellFormed = true ∧
    ¬ (Instr.phProcess = .phProcess ∧ (phState 0x7FFFFFFF 0x7FFFFFFF true).ph.loop = true ∧
      2 * Spec.PM < (phState 0x7FFFFFFF 0x7FFFFFFF true).ph.phase.toNat +
        (phState 0x7FFFFFFF 0x7FFFFFFF true).ph.delta.toNat) := by decide

theorem witness_LimitedDriverIsNeverRefused : ∃ s : State, s.InRange ∧ s.ph.delta.toNat ≤ Spec.PM ∧
    s.port ≠ [] ∧ ∀ e ∈ s.port, e.keepsLimit = true :=
  ⟨(phState 0x7FFFFFFF 0x7FFFFFFF true).setPort [.opw 0, .hwReset, .opw 0x0200009C40], by constructor <;> decide,
    by decide, by decide, by decide⟩

theorem witness_PhOneShotRamp : (phState 0 53687000 false).ph.loop = false ∧
    (phState 0 53687000 false).ph.phase.toNat = 0 := by decide

/-- The smallest increment, and one that reaches the end at once. -/
theorem witness_PhOneShotEndsOnTime :
    ((phState 0 1 false).ph.loop = false ∧ (phState 0 1 false).ph.phase.toNat = 0 ∧
      0 < (phState 0 1 false).ph.delta.toNat) ∧
    ((phState 0 0xFFFFFFFF false).ph.loop = false ∧ (phState 0 0xFFFFFFFF false).ph.phase.toNat = 0 ∧
      0 < (phState 0 0xFFFFFFFF false).ph.delta.toNat ∧
      Spec.ceilDiv Spec.PM (phState 0 0xFFFFFFFF false).ph.delta.toNat ≤ 1) := by decide

/-- The smallest and the greatest duration of the range. -/
theorem witness_DurationTakesFortyPerMillisecondPlusOne :
    (∃ t, 1 ≤ (1 : Word).toInt ∧ (1 : Word).toInt ≤ 1148 ∧ State.reset.ph.loop = false ∧
      State.reset.ph.phase.toNat = 0 ∧ exec (.phSetdur 1) State.reset = .next t) ∧
    (∃ t, 1 ≤ (1148 : Word).toInt ∧ (1148 : Word).toInt ≤ 1148 ∧ State.reset.ph.loop = false ∧
      State.reset.ph.phase.toNat = 0 ∧ exec (.phSetdur 1148) State.reset = .next t) :=
  ⟨⟨_, by decide, by decide, rfl, rfl, rfl⟩, _, by decide, by decide, rfl, rfl, rfl⟩

theorem witness_PhLoopingPhase : (phState 0 0x7FFFFFFF true).ph.loop = true ∧
    (phState 0 0x7FFFFFFF true).ph.phase.toNat = 0 ∧ (phState 0 0x7FFFFFFF true).ph.delta.toNat ≤ Spec.PM := by decide

theorem witness_OscLoopingRun : (oscState 0 0xFFFFFFFF true 2 64).osc.loop = true ∧
    (oscState 0 0xFFFFFFFF true 2 64).osc.phase.toNat = 0 := by decide

/-- `Na = 201` and `Nd = 6001`, so `n = 200, 201, 6202` meet the three cases. -/
theorem witness_EnvelopeRun : State.reset.env.attack.phase.toNat = 0 ∧ State.reset.env.decay.phase.toNat = 0 ∧
    State.reset.env.attack.delta.toNat = 10737400 ∧ State.reset.env.decay.delta.toNat = 357913 ∧
    Spec.ceilDiv Spec.PM 10737400 = 201 ∧ Spec.ceilDiv Spec.PM 357913 = 6001 := by decide

theorem witness_TrigSilentUntilFired : ∃ t, State.reset.trig.ssf.toInt = 2147483647 ∧
    Instr.trigReset ∉ [Instr.trigSetwidth 160, .trigSetamp 127, .trigProcess] ∧
    execList [.trigSetwidth 160, .trigSetamp 127, .trigProcess] State.reset = .next t :=
  ⟨_, by decide, by decide, rfl⟩

theorem witness_OnlyCountingRestoresSsfMax : ∃ t, (trigState 0x7FFFFFFE 0 0).InRange ∧
    execList [.trigProcess] (trigState 0x7FFFFFFE 0 0) = .next t ∧ t.trig.ssf.toInt = 2147483647 :=
  ⟨_, by constructor <;> decide, rfl, by decide⟩

/-- Both clauses, the first from `n = ceil(0x7F000000 / d)` on. -/
theorem witness_SlewRun : 0 < (slewState 0 53687000 0 0 0).slew.ph.delta.toNat ∧
    Spec.ceilDiv 0x7F000000 (slewState 0 53687000 0 0 0).slew.ph.delta.toNat = 40 ∧
    (slewState 0 0 0 0 0).slew.ph.delta.toNat = 0 := by decide

theorem witness_SlewFromZeroRisesBelowTarget : (slewState 0 53687000 0 0 0).slew.lastVal.toNat = 0 ∧
    0 < (slewState 0 53687000 0 0 0).slew.ph.delta.toNat ∧ 1 ≤ (1 : Septet).toNat ∧ 1 ≤ (127 : Septet).toNat := by decide

theorem witness_EveryLineAssembles : (Instr.trigSetwidth 0x80000000).wellFormed = true ∧
    (Instr.phSetfreq 80000).wellFormed = true := by decide

theorem witness_ProgramTextRunsInOrder :
    ∀ i ∈ [Instr.phSetloop true, .phSetfreq 10000, .phProcess], i.wellFormed = true := by decide

end Sys2Proof.Tests
end

section
/-! PROOFS. The obligations of `10_state.md`: an operation writes and reads its own unit only (R20), the invariants of
a run (R22 to R24, R37, R46), hardware reset (R47) and the rate setters (R31). -/

namespace Sys2Proof.Machine

/-! ## Locality: an operation is a function of its own unit (R20, R67) -/

/-- `s` with the fields of unit `u` taken from `t`. -/
def State.withUnit (u : UnitId) (s t : State) : State :=
  match u with
  | .ph => s.setPh t.ph
  | .osc => s.setOsc t.osc
  | .env => s.setEnv t.env
  | .trig => s.setTrig t.trig
  | .slew => s.setSlew t.slew

/-- The answer `r` of an operation on unit `u`, carried over to the state `s`: the fields of the unit and the result are
the answer's, everything else is `s`'s. -/
def transplant (u : UnitId) (s : State) (r : Result) : Result :=
  match r with
  | .next t => .next ((s.withUnit u t).setRes t.res)
  | .fault f => .fault f
  | .refused why => .refused why

theorem AgreeOn.refl (u : UnitId) (s : State) : AgreeOn u s s := by
  cases u <;> rfl

/-- Taking over a unit makes the two states agree on it. -/
theorem agreeOn_withUnit (u : UnitId) (s t : State) (r : Option Word) : AgreeOn u ((s.withUnit u t).setRes r) t := by
  cases u <;> rfl

/-- Taking over a unit keeps the others and the driver's events. -/
theorem othersKept_withUnit (u : UnitId) (s t : State) (r : Option Word) :
    OthersKept u s ((s.withUnit u t).setRes r) := by
  cases u with
  | ph => exact othersKept_ph s t.ph r
  | osc => exact othersKept_osc s t.osc r
  | env => exact othersKept_env s t.env r
  | trig => exact othersKept_trig s t.trig r
  | slew => exact othersKept_slew s t.slew r

/-- What an operation answers is decided by the fields of its own unit (R20): its answer in any other state with the
same fields of the unit is the same but for what lies outside the unit. -/
theorem exec_eq_transplant {i : Instr} {s s' : State} (h : AgreeOn i.unit s s') :
    exec i s = transplant i.unit s (exec i s') := by
  cases i with
  | phProcess =>
    have h : s.ph = s'.ph := h
    by_cases hs : phTickSpecified s'.ph.loop s'.ph.toPhasor = true
    · rw [exec_phProcess_specified hs, exec_phProcess_specified (h ▸ hs), h]; rfl
    · rw [exec_phProcess_overwrap hs, exec_phProcess_overwrap (h ▸ hs)]; rfl
  | phSetfreq freq =>
    have h : s.ph = s'.ph := h
    by_cases hf : freqLegal freq = true
    · rw [exec_phSetfreq_legal hf, exec_phSetfreq_legal hf, h]; rfl
    · rw [exec_phSetfreq_reserved hf, exec_phSetfreq_reserved hf]; rfl
  | oscSetfreq freq =>
    have h : s.osc = s'.osc := h
    by_cases hf : freqLegal freq = true
    · rw [exec_oscSetfreq_legal hf, exec_oscSetfreq_legal hf, h]; rfl
    · rw [exec_oscSetfreq_reserved hf, exec_oscSetfreq_reserved hf]; rfl
  | envProcess =>
    have h : s.env = s'.env := h
    by_cases he : isAtEnd s'.env.attack = true
    · rw [exec_envProcess_atEnd he, exec_envProcess_atEnd (h ▸ he), h]; rfl
    · rw [exec_envProcess_attacking he, exec_envProcess_attacking (h ▸ he), h]; rfl
  | phReset | phSetdur | phRunning | phIsatend | phSetloop
  | oscProcess | oscReset | oscSetdur | oscRunning | oscIsatend | oscSetloop | oscSettype | oscSetwidth
  | envReset | envSetattack | envSetdecay
  | trigProcess | trigReset | trigSetwidth | trigSetamp
  | slewProcess | slewSet | slewSetslew =>
    obtain ⟨⟩ := s
    cases h
    rfl

theorem transplant_next {u : UnitId} {s t : State} {r : Result} (h : transplant u s r = .next t) :
    ∃ t', r = .next t' ∧ t = (s.withUnit u t').setRes t'.res := by
  cases r with
  | next t' => cases h; exact ⟨t', rfl, rfl⟩
  | fault f => cases h
  | refused why => cases h

/-- Settles O34: what an operation answers is carried over from one state to the other. -/
theorem operationsReadOnlyTheirUnit : Obligations.OperationsReadOnlyTheirUnit := by
  intro i s s' h
  have hs := exec_eq_transplant h
  cases hr : exec i s' with
  | next t' =>
    rw [hr] at hs
    exact .inl ⟨_, t', hs, rfl, agreeOn_withUnit i.unit s t' t'.res, rfl⟩
  | fault f => exact nomatch f
  | refused why =>
    rw [hr] at hs
    exact .inr ⟨why, hs, rfl⟩

/-- Settles O33: an operation's answer is its own answer carried over to the state it started from. -/
theorem operationsStayInTheirUnit : Obligations.OperationsStayInTheirUnit := by
  intro i s t h
  obtain ⟨t', -, rfl⟩ := transplant_next ((exec_eq_transplant (AgreeOn.refl i.unit s)).symm.trans h)
  exact othersKept_withUnit i.unit s t' t'.res

/-! ## Invariants: the reset state, one operation, one step -/

/-- A property of the block's fields that holds at reset, that the driver's events do not touch and that every operation
keeps is kept by every step. -/
theorem step_keeps {P : State → Prop} (hport : ∀ s es, P s → P (s.setPort es)) (hreset : P State.reset)
    (hexec : ∀ i s t, P s → exec i s = .next t → P t) {s t : State} (hs : P s) (h : step s = .next t) : P t := by
  obtain ⟨-, rfl⟩ | ⟨es, -, rfl⟩ | ⟨w, es, i, -, -, hi⟩ := step_next_cases h
  · exact hs
  · exact hport _ es hreset
  · exact hexec i _ t (hport s es hs) hi

/-! ## The answers of the meanings that branch -/

theorem exec_phProcess_next {s t : State} (h : exec .phProcess s = .next t) :
    phTickSpecified s.ph.loop s.ph.toPhasor = true ∧
      t = (s.setPh (s.ph.setPhasor (advance s.ph.loop phWrap s.ph.toPhasor))).setRes
        (some (resPattern (phasorOut s.ph.toPhasor))) := by
  by_cases hs : phTickSpecified s.ph.loop s.ph.toPhasor = true
  · rw [exec_phProcess_specified hs, returnValue_next] at h
    exact ⟨hs, h⟩
  · rw [exec_phProcess_overwrap hs] at h
    cases h

theorem exec_phSetfreq_next {s t : State} {freq : Word} (h : exec (.phSetfreq freq) s = .next t) :
    freqLegal freq = true ∧
      t = (s.setPh (s.ph.setPhasor (s.ph.toPhasor.setDelta (freqDelta freq)))).setRes none := by
  by_cases hf : freqLegal freq = true
  · rw [exec_phSetfreq_legal hf, returnNone_next] at h
    exact ⟨hf, h⟩
  · rw [exec_phSetfreq_reserved hf] at h
    cases h

theorem exec_oscSetfreq_next {s t : State} {freq : Word} (h : exec (.oscSetfreq freq) s = .next t) :
    freqLegal freq = true ∧
      t = (s.setOsc (s.osc.setPhasor (s.osc.toPhasor.setDelta (freqDelta freq)))).setRes none := by
  by_cases hf : freqLegal freq = true
  · rw [exec_oscSetfreq_legal hf, returnNone_next] at h
    exact ⟨hf, h⟩
  · rw [exec_oscSetfreq_reserved hf] at h
    cases h

/-- `ENV.PROCESS` advances the decay phasor once the attack is at end, and the attack phasor before (R152). -/
theorem exec_envProcess_next {s t : State} (h : exec .envProcess s = .next t) :
    (isAtEnd s.env.attack = true ∧ t = (s.setEnv { s.env with decay := advanceOneShot s.env.decay }).setRes
      (some (resPattern (min Config.outMax (Config.outMax - phasorOut s.env.decay : Int))))) ∨
    (isAtEnd s.env.attack = false ∧ t = (s.setEnv { s.env with attack := advanceOneShot s.env.attack }).setRes
      (some (resPattern (min (phasorOut s.env.attack : Int) Config.outMax)))) := by
  cases he : isAtEnd s.env.attack with
  | true =>
    rw [exec_envProcess_atEnd he, returnValue_next] at h
    exact .inl ⟨rfl, h⟩
  | false =>
    rw [exec_envProcess_attacking (ne_true_of_eq_false he), returnValue_next] at h
    exact .inr ⟨rfl, h⟩

/-! ## Values that stay in range -/

/-- An advance whose wrap, where it is used, is at most `PHASE_MAX` ends at most there (R22, R113). -/
theorem advance_phase_le {loop : Bool} {wrap : Nat → Nat} {p : Phasor}
    (hw : loop = true → Config.phaseMax ≤ tickSum p → wrap (tickSum p) ≤ Config.phaseMax) :
    (advance loop wrap p).phase.toNat ≤ Config.phaseMax := by
  have hn : nextPhase loop wrap (tickSum p) ≤ Config.phaseMax := by
    unfold nextPhase
    split
    · omega
    · split
      · exact hw ‹_› (by omega)
      · exact Nat.le_refl _
  rw [advance_phase_toNat (lt_of_le_of_lt hn (by decide))]
  exact hn

/-- A tick of `PH` that R114 gives a meaning ends in range. -/
theorem advance_phWrap_le {loop : Bool} {p : Phasor} (h : phTickSpecified loop p = true) :
    (advance loop phWrap p).phase.toNat ≤ Config.phaseMax := by
  rw [phTickSpecified_iff] at h
  refine advance_phase_le fun hl _ => ?_
  have hsum : ¬ 2 * Config.phaseMax < tickSum p := fun hlt => h ⟨hl, hlt⟩
  unfold phWrap
  omega

/-- A tick of `OSC` ends in range (R131). -/
theorem advance_oscWrap_le (loop : Bool) (p : Phasor) :
    (advance loop oscWrap p).phase.toNat ≤ Config.phaseMax := by
  refine advance_phase_le fun _ _ => ?_
  rw [oscWrap_mod (tickSum_lt p)]
  exact Nat.le_of_lt (Nat.mod_lt _ (by decide))

theorem advanceOneShot_le (p : Phasor) : (advanceOneShot p).phase.toNat ≤ Config.phaseMax := by
  rw [advanceOneShot_phase]
  exact Nat.min_le_right _ _

/-- The crossfade of two levels is a level (R181). -/
theorem lerp_level {a b i : Nat} (ha : a ≤ 127) (hb : b ≤ 127) (hi : i ≤ 127) :
    ∃ v : Nat, lerp a b i = v ∧ v ≤ 127 := by
  refine ⟨_, lerp_natCast hi, ?_⟩
  have h₁ : a * (127 - i) ≤ 127 * (127 - i) := Nat.mul_le_mul_right _ ha
  have h₂ : b * i ≤ 127 * i := Nat.mul_le_mul_right _ hb
  simp only [Nat.shiftRight_eq_div_pow]
  omega

/-- The value of `SLEW.PROCESS` is a level (R182). -/
theorem slewValue_level {u : SlewUnit} (hp : u.ph.phase.toNat ≤ Config.phaseMax) (hf : u.fromLevel.toNat ≤ 127)
    (ht : u.toLevel.toNat ≤ 127) : ∃ v : Nat, slewValue u = v ∧ v ≤ 127 := by
  unfold slewValue
  split
  · exact ⟨_, rfl, ht⟩
  · exact lerp_level hf ht (phasorOut_le hp)

theorem ofInt_level_toNat {v : Nat} (h : v ≤ 127) : (BitVec.ofInt 8 (v : Int)).toNat = v := by
  rw [BitVec.ofInt_natCast, BitVec.toNat_ofNat]
  omega

theorem levelValue_toNat (x : Septet) : (levelValue x).toNat = x.toNat := by
  have := x.isLt
  rw [levelValue, BitVec.toNat_setWidth]
  omega

/-- The counter's saturating increment as the register holds it (R166). -/
theorem ssfTick_toInt (ssf : Word) :
    (BitVec.ofInt 32 (ssfTick (signedValue ssf))).toInt = min (ssf.toInt + 1) Config.ssfMax := by
  have h₁ := ssf.le_toInt
  have h₂ := ssf.toInt_lt
  have hv : ssfTick (signedValue ssf) = min (ssf.toInt + 1) Config.ssfMax := by
    rw [ssfTick, signedValue, ssfMax_eq]
    split <;> omega
  rw [hv, ssfMax_eq, BitVec.toInt_ofInt]
  exact Int.bmod_eq_of_le (by omega) (by omega)

/-! ## The legal values (R22, R23, R24, R37) -/

/-- Settles O27, field by field of the reset state. -/
theorem legalValuesHoldAtReset : Obligations.LegalValuesHoldAtReset := by
  constructor <;> decide

/-- Every operation that completes keeps the legal values. -/
theorem exec_keeps_inRange {i : Instr} {s t : State} (hs : s.InRange) (h : exec i s = .next t) : t.InRange := by
  cases i with
  | phProcess =>
    obtain ⟨hspec, rfl⟩ := exec_phProcess_next h
    exact { hs with phPhase := advance_phWrap_le hspec }
  | oscProcess => cases h; exact { hs with oscPhase := advance_oscWrap_le _ _ }
  | envProcess =>
    obtain ⟨-, rfl⟩ | ⟨-, rfl⟩ := exec_envProcess_next h
    · exact { hs with decayPhase := advanceOneShot_le _ }
    · exact { hs with attackPhase := advanceOneShot_le _ }
  | trigProcess =>
    cases h
    refine { hs with ssf := ?_ }
    have hssf := hs.ssf
    rw [State.setRes_trig, State.setTrig_trig, ssfTick_toInt, ssfMax_eq]
    omega
  | slewProcess =>
    cases h
    obtain ⟨v, hv, hle⟩ := slewValue_level hs.slewPhase hs.fromLevel hs.toLevel
    refine { hs with slewPhase := advanceOneShot_le _, lastVal := ?_ }
    rw [State.setRes_slew, State.setSlew_slew, hv, ofInt_level_toNat hle]
    exact hle
  | phReset => cases h; exact { hs with phPhase := Nat.zero_le _ }
  | oscReset => cases h; exact { hs with oscPhase := Nat.zero_le _ }
  | envReset => cases h; exact { hs with attackPhase := Nat.zero_le _, decayPhase := Nat.zero_le _ }
  | trigReset => cases h; exact { hs with ssf := (by decide : -1 ≤ (BitVec.ofInt 32 (-1)).toInt) }
  | slewSet x =>
    cases h
    refine { hs with fromLevel := hs.lastVal, toLevel := ?_, slewPhase := Nat.zero_le _ }
    rw [State.setRes_slew, State.setSlew_slew, levelValue_toNat]
    exact Nat.le_of_lt_succ x.isLt
  | phSetfreq => obtain ⟨-, rfl⟩ := exec_phSetfreq_next h; exact { hs with }
  | oscSetfreq => obtain ⟨-, rfl⟩ := exec_oscSetfreq_next h; exact { hs with }
  | phSetdur | phRunning | phIsatend | phSetloop
  | oscSetdur | oscRunning | oscIsatend | oscSetloop | oscSettype | oscSetwidth
  | envSetattack | envSetdecay | trigSetwidth | trigSetamp | slewSetslew => cases h; exact { hs with }

/-- Settles O28, by one operation and the packaged step. -/
theorem stepKeepsLegalValues : Obligations.StepKeepsLegalValues := fun _ _ =>
  step_keeps (fun _ _ hs => { hs with }) legalValuesHoldAtReset fun _ _ _ => exec_keeps_inRange

/-! ## The reachable increments (R46) -/

theorem isDurDelta_durDelta (ms : Word) : IsDurDelta (durDelta ms) := by
  unfold IsDurDelta
  rw [durDelta_toNat, durToDelta]
  split
  · exact .inl rfl
  · exact .inr ⟨ms.toInt.toNat, by omega, rfl⟩

theorem isFreqDelta_freqDelta {freq : Word} (h : freqLegal freq = true) : IsFreqDelta (freqDelta freq) := by
  have hle : freq.toNat ≤ Config.freqMax := of_decide_eq_true h
  exact ⟨freq.toNat, hle, freqDelta_toNat hle⟩

theorem reset_deltasReachable : State.reset.DeltasReachable where
  ph := .inr (.inl rfl)
  osc := .inr (.inl rfl)
  attack := .inr ⟨5, by decide, by decide⟩
  decay := .inr ⟨150, by decide, by decide⟩
  slew := .inl rfl

/-- Every operation that completes keeps the reachable increments: only `SETFREQ` and the duration setters write one. -/
theorem exec_keeps_deltasReachable {i : Instr} {s t : State} (hs : s.DeltasReachable) (h : exec i s = .next t) :
    t.DeltasReachable := by
  cases i with
  | phSetfreq =>
    obtain ⟨hf, rfl⟩ := exec_phSetfreq_next h
    exact { hs with ph := .inl (isFreqDelta_freqDelta hf) }
  | oscSetfreq =>
    obtain ⟨hf, rfl⟩ := exec_oscSetfreq_next h
    exact { hs with osc := .inl (isFreqDelta_freqDelta hf) }
  | phSetdur ms => cases h; exact { hs with ph := .inr (isDurDelta_durDelta ms) }
  | oscSetdur ms => cases h; exact { hs with osc := .inr (isDurDelta_durDelta ms) }
  | envSetattack ms => cases h; exact { hs with attack := isDurDelta_durDelta ms }
  | envSetdecay ms => cases h; exact { hs with decay := isDurDelta_durDelta ms }
  | slewSetslew ms => cases h; exact { hs with slew := isDurDelta_durDelta ms }
  | phProcess => obtain ⟨-, rfl⟩ := exec_phProcess_next h; exact { hs with }
  | envProcess =>
    obtain ⟨-, rfl⟩ | ⟨-, rfl⟩ := exec_envProcess_next h
    · exact { hs with }
    · exact { hs with }
  | phReset | phRunning | phIsatend | phSetloop
  | oscProcess | oscReset | oscRunning | oscIsatend | oscSetloop | oscSettype | oscSetwidth
  | envReset | trigProcess | trigReset | trigSetwidth | trigSetamp
  | slewProcess | slewSet => cases h; exact { hs with }

/-- Settles O29, by one operation and the packaged step. -/
theorem stepKeepsReachableDeltas : Obligations.StepKeepsReachableDeltas :=
  ⟨reset_deltasReachable, fun _ _ =>
    step_keeps (fun _ _ hs => { hs with }) reset_deltasReachable fun _ _ _ => exec_keeps_deltasReachable⟩

theorem IsDurDelta.le {d : Word} (h : IsDurDelta d) : d.toNat ≤ 53687000 := by
  obtain h | ⟨m, -, h⟩ := h
  · omega
  · rw [h]; exact Nat.div_le_self _ _

theorem IsFreqDelta.le {d : Word} (h : IsFreqDelta d) : d.toNat ≤ 4294960000 := by
  obtain ⟨f, hf, h⟩ := h
  omega

/-- An increment of `PH` or `OSC` is at most the one of 80000 Hz. -/
theorem rateDelta_le {d : Word} (h : IsFreqDelta d ∨ IsDurDelta d) : d.toNat ≤ 4294960000 := by
  obtain h | h := h
  · exact h.le
  · have := h.le
    omega

/-- `PHASE_MAX` lies between the increments of 40000 and 40001 Hz, above those of every duration. -/
theorem phaseMax_lt_rateDelta_iff {d : Word} (h : IsFreqDelta d ∨ IsDurDelta d) :
    Spec.PM < d.toNat ↔ ∃ f, 40001 ≤ f ∧ f ≤ 80000 ∧ d.toNat = 53687 * f := by
  rw [show Spec.PM = 2147483647 from rfl]
  constructor
  · intro hlt
    obtain ⟨f, hf, hd⟩ | hdur := h
    · exact ⟨f, by omega, hf, hd⟩
    · have := hdur.le
      omega
  · rintro ⟨f, hf, -, hd⟩
    omega

/-- Settles O30, from the sizes of the two kinds of increment. -/
theorem reachableDeltaBounds : Obligations.ReachableDeltaBounds := fun _ hs =>
  ⟨⟨hs.attack.le, hs.decay.le, hs.slew.le⟩, ⟨rateDelta_le hs.ph, rateDelta_le hs.osc⟩,
    phaseMax_lt_rateDelta_iff hs.ph, phaseMax_lt_rateDelta_iff hs.osc⟩

/-! ## Hardware reset (R47, R230) -/

theorem reset_resetFields : Spec.ResetFields State.reset := by
  unfold Spec.ResetFields
  decide

/-- Settles O9: hardware reset keeps only the driver's later events, which are no field of R47. -/
theorem hardwareResetRestoresEveryField : Obligations.HardwareResetRestoresEveryField :=
  ⟨reset_resetFields, fun _ => reset_resetFields⟩

/-! ## The rate setters (R31, R238) -/

/-- `SETFREQ` and `SETDUR`, of either unit. -/
theorem rateSetter_cases {i : Instr} (h : i.op = .setfreq ∨ i.op = .setdur) :
    ((∃ freq, i = .phSetfreq freq) ∨ ∃ ms, i = .phSetdur ms) ∨
      ((∃ freq, i = .oscSetfreq freq) ∨ ∃ ms, i = .oscSetdur ms) := by
  cases i <;> simp [Instr.op] at h ⊢

/-- `s` with the increment of `PH` or `OSC` given. -/
def State.withRate (u : UnitId) (s : State) (d : Word) : State :=
  match u with
  | .ph => s.setPh (s.ph.setPhasor (s.ph.toPhasor.setDelta d))
  | .osc => s.setOsc (s.osc.setPhasor (s.osc.toPhasor.setDelta d))
  | .env | .trig | .slew => s

/-- A well-formed rate setter writes its unit's increment and nothing else (R121, R122, R137, R138). -/
theorem exec_rateSetter {i : Instr} (h : i.op = .setfreq ∨ i.op = .setdur) (hwf : i.wellFormed = true) (s : State) :
    ∃ d, exec i s = .next ((s.withRate i.unit d).setRes none) := by
  obtain (⟨freq, rfl⟩ | ⟨ms, rfl⟩) | (⟨freq, rfl⟩ | ⟨ms, rfl⟩) := rateSetter_cases h
  · exact ⟨freqDelta freq, exec_phSetfreq_legal hwf⟩
  · exact ⟨durDelta ms, rfl⟩
  · exact ⟨freqDelta freq, exec_oscSetfreq_legal hwf⟩
  · exact ⟨durDelta ms, rfl⟩

/-- A rate setter does not see the increment that was there, nor the result. -/
theorem exec_rateSetter_withRate {j : Instr} (h : j.op = .setfreq ∨ j.op = .setdur) (s : State) (d : Word)
    (r : Option Word) : exec j ((s.withRate j.unit d).setRes r) = exec j s := by
  obtain (⟨freq, rfl⟩ | ⟨ms, rfl⟩) | (⟨freq, rfl⟩ | ⟨ms, rfl⟩) := rateSetter_cases h <;> rfl

theorem execList_singleton (i : Instr) (s : State) : execList [i] s = exec i s := by
  simp only [execList]
  cases exec i s <;> rfl

/-- Settles O37: the first setter writes only what the second one overwrites without reading it. -/
theorem laterRateSetterWins : Obligations.LaterRateSetterWins := by
  intro i j s hu hi hj hwf
  obtain ⟨d, hd⟩ := exec_rateSetter hi hwf s
  rw [execList_cons hd, execList_singleton, hu, exec_rateSetter_withRate hj]

end Sys2Proof.Machine
end

section
/-! PROOFS. The obligations of `20_memory.md`: the order of operations and the block that does nothing by itself (R67),
the classes of operations (R63), and the independence of the units (R67, R242). -/

namespace Sys2Proof.Machine

/-! ## Taking over one unit -/

@[simp] theorem State.withUnit_self (u : UnitId) (s : State) : s.withUnit u s = s := by cases u <;> rfl

theorem State.withUnit_setRes (u : UnitId) (s t : State) (r : Option Word) :
    (s.setRes r).withUnit u t = (s.withUnit u t).setRes r := by cases u <;> rfl

theorem State.withUnit_setPort (u : UnitId) (s t : State) (es : List PortEvent) :
    (s.setPort es).withUnit u t = (s.withUnit u t).setPort es := by cases u <;> rfl

/-- Two different units are taken over in either order. -/
theorem State.withUnit_comm {u v : UnitId} (h : u ≠ v) (s a b : State) :
    (s.withUnit u a).withUnit v b = (s.withUnit v b).withUnit u a := by
  cases u <;> cases v
  case ph.ph | osc.osc | env.env | trig.trig | slew.slew => exact absurd rfl h
  all_goals rfl

theorem AgreeOn.symm {u : UnitId} {s t : State} (h : AgreeOn u s t) : AgreeOn u t s := by
  cases u <;> exact Eq.symm h

theorem agreeOn_setPort (u : UnitId) (s : State) (es : List PortEvent) : AgreeOn u (s.setPort es) s := by
  cases u <;> rfl

theorem agreeOn_setRes (u : UnitId) (s : State) (r : Option Word) : AgreeOn u (s.setRes r) s := by
  cases u <;> rfl

/-- Where every unit but `u` is kept, the states agree on any other unit. -/
theorem OthersKept.agreeOn {u v : UnitId} {s t : State} (h : OthersKept u s t) (hne : u ≠ v) : AgreeOn v t s := by
  cases v with
  | ph => exact h.ph hne
  | osc => exact h.osc hne
  | env => exact h.env hne
  | trig => exact h.trig hne
  | slew => exact h.slew hne

/-! ## An operation from another state with the same fields of its unit -/

/-- An operation that completes writes its unit and the result port. -/
theorem exec_next_eq {i : Instr} {s t : State} (h : exec i s = .next t) : t = (s.withUnit i.unit t).setRes t.res := by
  have := exec_eq_transplant (AgreeOn.refl i.unit s)
  rw [h] at this
  exact Host.Outcome.next.inj this

/-- An operation that completes does so from any state with the same fields of its unit, with the same writes. -/
theorem exec_next_of_agreeOn {i : Instr} {s s' t : State} (ha : AgreeOn i.unit s' s) (h : exec i s = .next t) :
    exec i s' = .next ((s'.withUnit i.unit t).setRes t.res) := by
  rw [exec_eq_transplant ha, h]; rfl

/-- An operation that left its unit as it was changes nothing more when it is repeated. -/
theorem exec_repeat {i : Instr} {s t : State} (h : exec i s = .next t) (ha : AgreeOn i.unit t s) :
    exec i t = .next t := by
  simpa using exec_next_of_agreeOn ha h

/-- The driver's later events do not matter to an operation that completes. -/
theorem exec_setPort_next {i : Instr} {s t : State} (es : List PortEvent) (h : exec i s = .next t) :
    exec i (s.setPort es) = .next (t.setPort es) := by
  have ht : t.setPort es = ((s.setPort es).withUnit i.unit t).setRes t.res := by
    rw [State.withUnit_setPort]
    exact congrArg (State.setPort · es) (exec_next_eq h)
  rw [ht]
  exact exec_next_of_agreeOn (agreeOn_setPort _ _ _) h

/-- Nor to one that is refused. -/
theorem exec_setPort_refused {i : Instr} {s : State} {r : Refusal} (es : List PortEvent) (h : exec i s = .refused r) :
    exec i (s.setPort es) = .refused r := by
  rw [exec_eq_transplant (agreeOn_setPort _ _ _), h]; rfl

/-! ## The order of operations (R67) -/

/-- The word of a well-formed operation decodes to it (R91). -/
theorem decode_encode {i : Instr} (h : i.wellFormed = true) : decode (encode i) = .ok i := by
  rw [encode, decode_packWord]
  cases i with
  | phSetfreq freq => exact Laws.RowDecodes.phSetfreq freq h
  | oscSetfreq freq => exact Laws.RowDecodes.oscSetfreq freq h
  | phSetloop b => exact Laws.RowDecodes.phSetloop b h
  | oscSetloop b => exact Laws.RowDecodes.oscSetloop b h
  | oscSettype t => exact Laws.RowDecodes.oscSettype t h
  | oscSetwidth w => exact Laws.RowDecodes.oscSetwidth w h
  | trigSetamp a => exact Laws.RowDecodes.trigSetamp a h
  | slewSet x => exact Laws.RowDecodes.slewSet x h
  | phProcess | phReset | phSetdur | phRunning | phIsatend
  | oscProcess | oscReset | oscSetdur | oscRunning | oscIsatend
  | envProcess | envReset | envSetattack | envSetdecay
  | trigProcess | trigReset | trigSetwidth
  | slewProcess | slewSetslew => rfl

/-- A step with the word of a well-formed operation pending performs the operation. -/
theorem step_encode {i : Instr} (h : i.wellFormed = true) (s : State) (es : List PortEvent) :
    step (s.setPort (.opw (encode i) :: es)) = exec i (s.setPort es) := by
  rw [step_event rfl, performEvent, performWord, decode_encode h, State.setPort_setPort]

/-- A sequence whose first operation is refused is refused. -/
theorem execList_cons_refused {i : Instr} {is : List Instr} {s : State} {r : Refusal} (h : exec i s = .refused r) :
    execList (i :: is) s = .refused r := by
  simp [execList, h]

/-- One step for each word of a list of operations performs the list. -/
theorem core_run_wordsOf {is : List Instr} (hwf : ∀ i ∈ is, i.wellFormed = true) (es : List PortEvent) (s : State) :
    Host.Core.run core is.length (s.setPort (wordsOf is ++ es)) = execList is (s.setPort es) := by
  induction is generalizing s with
  | nil => rfl
  | cons i is ih =>
    obtain ⟨hi, his⟩ := List.forall_mem_cons.mp hwf
    have hstep : step (s.setPort (wordsOf (i :: is) ++ es)) = exec i (s.setPort (wordsOf is ++ es)) :=
      step_encode hi s _
    cases hr : exec i s with
    | next t =>
      rw [exec_setPort_next _ hr] at hstep
      rw [List.length_cons, core_run_succ _ hstep, ih his, execList_cons (exec_setPort_next es hr)]
    | fault f => exact nomatch f
    | refused r =>
      rw [exec_setPort_refused _ hr] at hstep
      exact (core_run_refused _ hstep).trans (execList_cons_refused (exec_setPort_refused es hr)).symm

/-- Settles O12, by induction on the operations: what is still pending does not matter to the one performed. -/
theorem portRunIsTheOperationsInOrder : Obligations.PortRunIsTheOperationsInOrder := by
  intro is es s hwf hport
  rw [← core_run_wordsOf hwf, ← hport, State.setPort_self]

/-- Settles O11, by induction on the number of steps. -/
theorem blockDoesNothingByItself : Obligations.BlockDoesNothingByItself := by
  intro s n h
  induction n with
  | zero => rfl
  | succ n ih => rw [core_run_succ n (step_idle h), ih]

/-! ## Independence of the units (R67, R242) -/

/-- Settles O35: neither operation writes what the other reads, and their writes go to different fields. -/
theorem differentUnitsCommute : Obligations.DifferentUnitsCommute := by
  intro i j s s₁ s₂ hne hi hj
  have hj' := exec_next_of_agreeOn ((operationsStayInTheirUnit i s s₁ hi).agreeOn hne).symm hj
  have hi' := exec_next_of_agreeOn ((operationsStayInTheirUnit j s _ hj').agreeOn hne.symm) hi
  refine ⟨_, _, hj', hi', rfl, rfl, ?_⟩
  calc ((((s.withUnit j.unit s₂).setRes s₂.res).withUnit i.unit s₁).setRes s₁.res).setRes none
      = (((s.withUnit i.unit s₁).setRes s₁.res).withUnit j.unit s₂).setRes none := by
        simp only [State.withUnit_setRes, State.setRes_setRes, State.withUnit_comm hne]
    _ = (s₁.withUnit j.unit s₂).setRes none := by rw [← exec_next_eq hi]
    _ = s₂.setRes none := by
        conv_rhs => rw [exec_next_eq hj, State.setRes_setRes]

/-! ## The classes of operations (R63) -/

/-- A pure read that completes writes the result port only (R119, R120, R135, R136). -/
theorem exec_pureRead_next {i : Instr} {s t : State} (hr : isPureRead i = true) (h : exec i s = .next t) :
    t = s.setRes t.res := by
  cases i with
  | phRunning | phIsatend | oscRunning | oscIsatend => cases h; rfl
  | phProcess | phReset | phSetfreq | phSetdur | phSetloop
  | oscProcess | oscReset | oscSetfreq | oscSetdur | oscSetloop | oscSettype | oscSetwidth
  | envProcess | envReset | envSetattack | envSetdecay
  | trigProcess | trigReset | trigSetwidth | trigSetamp
  | slewProcess | slewSet | slewSetslew => cases hr

/-- A write that completes returns none, and writes the same values again when it is issued again. -/
theorem exec_write_next {i : Instr} {s t : State} (hw : isWrite i = true) (h : exec i s = .next t) :
    t.res = none ∧ exec i t = .next t := by
  cases i with
  | phSetfreq freq =>
    obtain ⟨hf, rfl⟩ := exec_phSetfreq_next h
    exact ⟨rfl, exec_phSetfreq_legal hf⟩
  | oscSetfreq freq =>
    obtain ⟨hf, rfl⟩ := exec_oscSetfreq_next h
    exact ⟨rfl, exec_oscSetfreq_legal hf⟩
  | phReset | phSetdur | phSetloop
  | oscReset | oscSetdur | oscSetloop | oscSettype | oscSetwidth
  | envReset | envSetattack | envSetdecay
  | trigReset | trigSetwidth | trigSetamp
  | slewSet | slewSetslew => cases h; exact ⟨rfl, rfl⟩
  | phProcess | phRunning | phIsatend
  | oscProcess | oscRunning | oscIsatend
  | envProcess | trigProcess | slewProcess => cases hw

/-- Settles O38: a pure read leaves its unit as it was, so it repeats; a write does not read what it writes. -/
theorem readsArePureAndWritesIdempotent : Obligations.ReadsArePureAndWritesIdempotent := by
  intro i s t h
  refine ⟨fun hr => ?_, fun hw => exec_write_next hw h⟩
  have ht : t = s.setRes t.res := exec_pureRead_next hr h
  refine ⟨?_, exec_repeat h ?_⟩
  · rw [ht, State.setRes_setRes]
  · rw [ht]
    exact agreeOn_setRes _ _ _

end Sys2Proof.Machine
end

section
/-! PROOFS. The obligations of `30_encoding.md`: the table of R84 against the decoder and the encoder (R84 to R91), the
reserved words (R88, R89), the operation port (R80, R81), the results (R87) and the assembler's lines (R92, R93). -/

namespace Sys2Proof

/-! ## The operand forms (R85) -/

/-- The operation `i` is well-formed, and these are the fields of its word (R81). -/
def Instr.HasFields (i : Instr) (u : UnitId) (op : OpName) (arg : Word) : Prop :=
  i.unit = u ∧ i.op = op ∧ i.arg = arg ∧ i.wellFormed = true

/-- What a row of the table answers to an operand, where `top` is the greatest legal one (R85, R91). -/
inductive RowAnswers (u : UnitId) (op : OpName) (top : Nat) (arg : Word) : Decoded → Prop
  | ok {i : Instr} (hle : arg.toNat ≤ top) (hi : i.HasFields u op arg) : RowAnswers u op top arg (.ok i)
  | reserved (hgt : top < arg.toNat) : RowAnswers u op top arg (.reserved .operand)

/-- The bits of an operand from bit `k` up are zero iff the operand is below `2^k`. -/
theorem extractLsb'_eq_zero_iff {arg : Word} {k n : Nat} (hkn : k + n = 32) :
    arg.extractLsb' k n = 0 ↔ arg.toNat < 2 ^ k := by
  have hlt : arg.toNat / 2 ^ k < 2 ^ n := by
    rw [Nat.div_lt_iff_lt_mul (Nat.two_pow_pos k), ← Nat.pow_add, Nat.add_comm, hkn]
    exact arg.isLt
  rw [BitVec.toNat_eq, BitVec.extractLsb'_toNat, Nat.shiftRight_eq_div_pow, Nat.mod_eq_of_lt hlt]
  simp [Nat.div_eq_zero_iff]

/-- An operand whose bits from bit `n` up are zero is its low `n` bits, zero-extended. -/
theorem setWidth_extractLsb'_eq {arg : Word} {n m : Nat} (hnm : n + m = 32) (h : arg.extractLsb' n m = 0) :
    (arg.extractLsb' 0 n).setWidth 32 = arg := by
  rw [extractLsb'_eq_zero_iff hnm] at h
  apply BitVec.eq_of_toNat_eq
  rw [BitVec.toNat_setWidth, BitVec.extractLsb'_toNat, Nat.shiftRight_zero, Nat.mod_eq_of_lt h,
    Nat.mod_eq_of_lt arg.isLt]

/-- An operand whose bits from bit 1 up are zero is its bit 0 as a number. -/
theorem boolArg_getLsbD_eq {arg : Word} (h : arg.extractLsb' 1 31 = 0) :
    (if arg.getLsbD 0 then 1 else 0) = arg := by
  rw [extractLsb'_eq_zero_iff rfl] at h
  obtain rfl | rfl : arg = 0 ∨ arg = 1 := by bv_omega
  · rfl
  · rfl

section
/-! Each form of R85, for any unit and kind whose operations have the form's operand as their operand field. -/

variable {u : UnitId} {op : OpName} (arg : Word)

/-- The shape of the forms that test their operand. -/
theorem ite_answers {top : Nat} {arg : Word} {i : Instr} {legal : Prop} [Decidable legal]
    (hle : legal ↔ arg.toNat ≤ top) (hi : legal → i.HasFields u op arg) :
    RowAnswers u op top arg (if legal then .ok i else .reserved .operand) := by
  split
  · rename_i h; exact .ok (hle.mp h) (hi h)
  · rename_i h; exact .reserved (Nat.lt_of_not_le (mt hle.mpr h))

theorem formNone_answers (i : Instr) (hi : i.HasFields u op 0 := by exact ⟨rfl, rfl, rfl, rfl⟩) :
    RowAnswers u op 0 arg (formNone arg i) :=
  ite_answers (by bv_omega) fun h => h ▸ hi

theorem formFreq_answers (mk : Word → Instr) (hmk : ∀ v, freqLegal v = true → (mk v).HasFields u op v) :
    RowAnswers u op Config.freqMax arg (formFreq arg mk) :=
  ite_answers decide_eq_true_iff (hmk arg)

theorem formSigned_answers (mk : Word → Instr)
    (hmk : ∀ v, (mk v).HasFields u op v := by exact fun _ => ⟨rfl, rfl, rfl, rfl⟩) :
    RowAnswers u op (2 ^ 32 - 1) arg (formSigned arg mk) :=
  .ok (Nat.le_sub_one_of_lt arg.isLt) (hmk arg)

theorem formBool_answers (mk : Bool → Instr)
    (hmk : ∀ b, (mk b).HasFields u op (if b then 1 else 0) := by exact fun _ => ⟨rfl, rfl, rfl, rfl⟩) :
    RowAnswers u op 1 arg (formBool arg mk) :=
  ite_answers ((extractLsb'_eq_zero_iff rfl).trans Nat.lt_succ_iff)
    fun h => by simpa only [boolArg_getLsbD_eq h] using hmk (arg.getLsbD 0)

theorem formU8_answers (mk : Octet → Instr)
    (hmk : ∀ v, (mk v).HasFields u op (v.setWidth 32) := by exact fun _ => ⟨rfl, rfl, rfl, rfl⟩) :
    RowAnswers u op 255 arg (formU8 arg mk) :=
  ite_answers ((extractLsb'_eq_zero_iff rfl).trans Nat.lt_succ_iff)
    fun h => by simpa only [setWidth_extractLsb'_eq rfl h] using hmk (arg.extractLsb' 0 8)

theorem formU7_answers (mk : Septet → Instr)
    (hmk : ∀ v, (mk v).HasFields u op (v.setWidth 32) := by exact fun _ => ⟨rfl, rfl, rfl, rfl⟩) :
    RowAnswers u op 127 arg (formU7 arg mk) :=
  ite_answers ((extractLsb'_eq_zero_iff rfl).trans Nat.lt_succ_iff)
    fun h => by simpa only [setWidth_extractLsb'_eq rfl h] using hmk (arg.extractLsb' 0 7)

end

theorem RowAnswers.exists_ok_iff {u : UnitId} {op : OpName} {top : Nat} {arg : Word} {d : Decoded}
    (h : RowAnswers u op top arg d) : (∃ i, d = .ok i) ↔ arg.toNat ≤ top := by
  cases h with
  | ok hle hi => exact ⟨fun _ => hle, fun _ => ⟨_, rfl⟩⟩
  | reserved hgt => exact ⟨nofun, fun hle => absurd hle (Nat.not_le_of_lt hgt)⟩

theorem RowAnswers.hasFields {u : UnitId} {op : OpName} {top : Nat} {arg : Word} {i : Instr}
    (h : RowAnswers u op top arg (.ok i)) : i.HasFields u op arg := by
  cases h with
  | ok _ hi => exact hi

/-! ## The rows of the table (R84) -/

/-- The greatest legal operand of a row: its range condition, or else all the bits its mask leaves free. -/
def OpRow.top (r : OpRow) : Nat := r.argMax.getD (~~~r.mask).toNat

/-- The decoder's look-up of the row's unit and kind reads the operands up to the row's greatest one, each to the
operation with these fields, and no others. -/
def OpRow.Answers (arg : Word) (r : OpRow) : Prop :=
  RowAnswers r.unit r.op r.top arg (decodeRow r.unit r.op arg)

theorem phRows_answer (arg : Word) : ∀ r ∈ phRows, r.Answers arg := by
  simp only [phRows, List.forall_mem_cons]
  exact ⟨formNone_answers arg .phProcess,
    formNone_answers arg .phReset,
    formFreq_answers arg .phSetfreq fun _ h => ⟨rfl, rfl, rfl, h⟩,
    formSigned_answers arg .phSetdur,
    formNone_answers arg .phRunning,
    formNone_answers arg .phIsatend,
    formBool_answers arg .phSetloop, nofun⟩

theorem oscRows_answer (arg : Word) : ∀ r ∈ oscRows, r.Answers arg := by
  simp only [oscRows, List.forall_mem_cons]
  exact ⟨formNone_answers arg .oscProcess,
    formNone_answers arg .oscReset,
    formFreq_answers arg .oscSetfreq fun _ h => ⟨rfl, rfl, rfl, h⟩,
    formSigned_answers arg .oscSetdur,
    formNone_answers arg .oscRunning,
    formNone_answers arg .oscIsatend,
    formBool_answers arg .oscSetloop,
    formU8_answers arg .oscSettype,
    formU8_answers arg .oscSetwidth, nofun⟩

theorem compositeRows_answer (arg : Word) : ∀ r ∈ compositeRows, r.Answers arg := by
  simp only [compositeRows, List.forall_mem_cons]
  exact ⟨formNone_answers arg .envProcess,
    formNone_answers arg .envReset,
    formSigned_answers arg .envSetattack,
    formSigned_answers arg .envSetdecay,
    formNone_answers arg .trigProcess,
    formNone_answers arg .trigReset,
    formSigned_answers arg .trigSetwidth,
    formU7_answers arg .trigSetamp,
    formNone_answers arg .slewProcess,
    formU7_answers arg .slewSet,
    formSigned_answers arg .slewSetslew, nofun⟩

theorem decodeRow_answers (arg : Word) {r : OpRow} (hr : r ∈ opTable) :
    RowAnswers r.unit r.op r.top arg (decodeRow r.unit r.op arg) := by
  obtain hr | hr := List.mem_append.mp hr
  · obtain hr | hr := List.mem_append.mp hr
    · exact phRows_answer arg r hr
    · exact oscRows_answer arg r hr
  · exact compositeRows_answer arg r hr

/-- Only the pairs of the table decode to an operation. -/
theorem row_of_decodeRow_ok {u : UnitId} {op : OpName} {arg : Word} {i : Instr} (h : decodeRow u op arg = .ok i) :
    ∃ r ∈ opTable, r.unit = u ∧ r.op = op := by
  unfold decodeRow at h
  split at h
  case h_28 => cases h
  all_goals decide

/-! ## Words by their rows (R84, R88) -/

/-- The fields of the word are the row's, its operand at most the greatest legal one. -/
def OpRow.Holds (r : OpRow) (w : OpWord) : Prop :=
  r.unit.code = unitField w ∧ r.op.code = opField w ∧ (argField w).toNat ≤ r.top

theorem UnitId.code_injective {u v : UnitId} (h : u.code = v.code) : u = v :=
  Option.some.inj (by rw [← decodeUnit_code, h, decodeUnit_code])

theorem OpName.code_injective {a b : OpName} (h : a.code = b.code) : a = b :=
  Option.some.inj (by rw [← decodeOp_code, h, decodeOp_code])

/-- A word with assigned codes decodes by the look-up of their pair (R91). -/
theorem decode_of_fields {w : OpWord} {u : UnitId} {op : OpName} (hu : u.code = unitField w)
    (hop : op.code = opField w) : decode w = decodeRow u op (argField w) := by
  rw [← decode_packWord, hu, hop, packWord_fields]

/-- A word that decodes to an operation has the codes of a row and the operation's fields. -/
theorem decode_ok_row {w : OpWord} {i : Instr} (h : decode w = .ok i) :
    ∃ r ∈ opTable, r.Holds w ∧ i.HasFields r.unit r.op (argField w) := by
  obtain ⟨u, op, hu, hop, hi⟩ := decode_ok_cases h
  obtain ⟨r, hr, rfl, rfl⟩ := row_of_decodeRow_ok hi
  have ha := decodeRow_answers (argField w) hr
  have hle := ha.exists_ok_iff.mp ⟨i, hi⟩
  rw [hi] at ha
  exact ⟨r, hr, ⟨hu, hop, hle⟩, ha.hasFields⟩

theorem exists_decode_ok_iff (w : OpWord) : (∃ i, decode w = .ok i) ↔ ∃ r ∈ opTable, r.Holds w := by
  constructor
  · rintro ⟨i, hi⟩
    obtain ⟨r, hr, hholds, -⟩ := decode_ok_row hi
    exact ⟨r, hr, hholds⟩
  · rintro ⟨r, hr, hu, hop, hle⟩
    rw [decode_of_fields hu hop]
    exact (decodeRow_answers _ hr).exists_ok_iff.mpr hle

/-- The word an operation decodes from is its own, and the operation is well-formed (R91). -/
theorem encode_of_decode {w : OpWord} {i : Instr} (h : decode w = .ok i) : encode i = w ∧ i.wellFormed = true := by
  obtain ⟨r, -, ⟨hu, hop, -⟩, hiu, hiop, hiarg, hwf⟩ := decode_ok_row h
  refine ⟨?_, hwf⟩
  rw [encode, hiu, hiop, hiarg, hu, hop, packWord_fields]

/-- The numbers of the spec's table are those of the mask table's rows. -/
theorem legalRows_eq :
    Spec.legalRows = opTable.map fun r => (r.unit.code.toNat, r.op.code.toNat, r.top) := by decide

theorem OpRow.holds_iff (r : OpRow) (w : OpWord) :
    r.Holds w ↔ w.toNat / 2 ^ 36 = r.unit.code.toNat ∧ w.toNat / 2 ^ 32 % 16 = r.op.code.toNat ∧
      w.toNat % 2 ^ 32 ≤ r.top := by
  rw [OpRow.Holds, BitVec.toNat_eq, BitVec.toNat_eq, unitField_toNat, opField_toNat, argField_toNat]
  exact and_congr eq_comm (and_congr eq_comm Iff.rfl)

theorem legalWord_iff (w : OpWord) : Spec.LegalWord w ↔ ∃ r ∈ opTable, r.Holds w := by
  simp only [Spec.LegalWord, legalRows_eq, List.mem_map, exists_exists_and_eq_and, OpRow.holds_iff]

/-! ## The masks (R84) -/

/-- A row's mask leaves the low `k` bits of the operand free, and a range condition goes with a whole operand. -/
theorem opTable_masks : ∀ r ∈ opTable, r.matchBits = packWord r.unit.code r.op.code 0 ∧
    ∃ k ∈ [0, 1, 7, 8, 32], r.mask = BitVec.allOnes 40 <<< k ∧
      (r.argMax = none ∧ r.top + 1 = 2 ^ k ∨ r.argMax = some r.top ∧ k = 32) := by decide

/-- A masked word is the codes' pattern iff the codes are the word's and its operand is within the free bits. -/
theorem and_mask_eq_iff {k : Nat} (hk : k ∈ [0, 1, 7, 8, 32]) (w : OpWord) (u op : Code) :
    w &&& BitVec.allOnes 40 <<< k = packWord u op 0 ↔
      u = unitField w ∧ op = opField w ∧ (argField w).toNat < 2 ^ k := by
  have hw := w.isLt
  have hop := op.isLt
  have hclear : (w &&& BitVec.allOnes 40 <<< k).toNat = w.toNat / 2 ^ k * 2 ^ k := by
    rw [← BitVec.shiftLeft_ushiftRight, BitVec.toNat_shiftLeft, BitVec.toNat_ushiftRight, Nat.shiftLeft_eq,
      Nat.shiftRight_eq_div_pow, Nat.mod_eq_of_lt (lt_of_le_of_lt (Nat.div_mul_le_self _ _) hw)]
  rw [BitVec.toNat_eq, BitVec.toNat_eq (x := u), BitVec.toNat_eq (x := op), hclear, packWord_toNat, unitField_toNat,
    opField_toNat, argField_toNat, show (0 : Word).toNat = 0 from rfl, Nat.add_zero]
  simp only [List.mem_cons, List.not_mem_nil, or_false] at hk
  obtain rfl | rfl | rfl | rfl | rfl := hk <;> omega

/-- A row of the table accepts exactly the words with its codes and a legal operand. -/
theorem OpRow.accepts_iff {r : OpRow} (hr : r ∈ opTable) (w : OpWord) : r.accepts w = true ↔ r.Holds w := by
  obtain ⟨hmatch, k, hk, hmask, hrange⟩ := opTable_masks r hr
  have harg := (argField w).isLt
  rw [OpRow.accepts, Bool.and_eq_true, beq_iff_eq, hmatch, hmask, and_mask_eq_iff hk, OpRow.Holds, and_assoc, and_assoc]
  obtain ⟨hnone, htop⟩ | ⟨hsome, rfl⟩ := hrange
  · rw [hnone, ← htop, Nat.lt_succ_iff]
    simp only [and_true]
  · rw [hsome]
    simp only [harg, true_and, decide_eq_true_eq]

end Sys2Proof

namespace Sys2Proof.Machine

/-! ## The decoder, the encoder and the table -/

/-- Settles O5: the row of the operation's unit and kind reads its operand pattern back. -/
theorem decodeOfEncodeIsTheOperation : Obligations.DecodeOfEncodeIsTheOperation := fun _ => decode_encode

/-- Settles O6: the row that a word decodes by gives the operation its fields back. -/
theorem encodeOfDecodeIsTheWord : Obligations.EncodeOfDecodeIsTheWord := fun _ _ => encode_of_decode

/-- Settles O4: the masks say what the fields say, and no two rows have the same codes. -/
theorem decoderAgreesWithMaskTable : Obligations.DecoderAgreesWithMaskTable := by
  intro w
  have hrows : (∃ r ∈ opTable, r.accepts w = true) ↔ ∃ r ∈ opTable, r.Holds w :=
    exists_congr fun r => and_congr_right fun hr => OpRow.accepts_iff hr w
  refine ⟨(exists_decode_ok_iff w).trans hrows.symm, fun i hi r hr => ?_⟩
  obtain ⟨q, -, ⟨hu, hop, -⟩, hiu, hiop, -⟩ := decode_ok_row hi
  rw [OpRow.accepts_iff hr, hiu, hiop]
  constructor
  · rintro ⟨hu', hop', -⟩
    exact ⟨UnitId.code_injective (hu'.trans hu.symm), OpName.code_injective (hop'.trans hop.symm)⟩
  · rintro ⟨hru, hrop⟩
    rw [← hru] at hu
    rw [← hrop] at hop
    rw [decode_of_fields hu hop] at hi
    exact ⟨hu, hop, (decodeRow_answers _ hr).exists_ok_iff.mp ⟨i, hi⟩⟩

/-- Settles O3: the legal words are those of the rows, and the decoder is total. -/
theorem reservedWordsAreRefused : Obligations.ReservedWordsAreRefused := by
  intro s w
  rw [legalWord_iff, ← exists_decode_ok_iff]
  cases hd : decode w with
  | ok i => exact ⟨fun h => absurd ⟨i, rfl⟩ h, fun _ => ⟨i, rfl, (encode_of_decode hd).2⟩⟩
  | reserved why => exact ⟨fun _ => ⟨why, rfl, by rw [performWord, hd]⟩, nofun⟩

/-! ## The number of legal words (R89) -/

/-- The word of a row of the table and one of its legal operands. -/
def rowWord (p : Σ k : Fin opTable.length, Fin (opTable[k].top + 1)) : OpWord :=
  packWord opTable[p.1].unit.code opTable[p.1].op.code (BitVec.ofNat 32 p.2)

theorem opTable_top_lt : ∀ r ∈ opTable, r.top < 2 ^ 32 := by decide

/-- No two rows have the same unit and kind. -/
theorem row_index_injective : Function.Injective fun k : Fin opTable.length => (opTable[k].unit, opTable[k].op) := by
  decide

theorem rowWord_operand (p : Σ k : Fin opTable.length, Fin (opTable[k].top + 1)) :
    (argField (rowWord p)).toNat = p.2 := by
  have htop := opTable_top_lt opTable[p.1] (List.getElem_mem _)
  rw [rowWord, argField_packWord, BitVec.toNat_ofNat, Nat.mod_eq_of_lt (by omega)]

/-- Different rows or different operands give different words. -/
theorem rowWord_injective : Function.Injective rowWord := by
  rintro ⟨k, a⟩ ⟨l, b⟩ h
  have hu : opTable[k].unit.code = opTable[l].unit.code := by simpa [rowWord] using congrArg unitField h
  have hop : opTable[k].op.code = opTable[l].op.code := by simpa [rowWord] using congrArg opField h
  obtain rfl : k = l := row_index_injective (Prod.ext (UnitId.code_injective hu) (OpName.code_injective hop))
  have hab : (a : Nat) = b := by rw [← rowWord_operand ⟨k, a⟩, h, rowWord_operand]
  rw [Fin.ext hab]

/-- The words of the rows are the words that decode to an operation. -/
theorem range_rowWord : Set.range rowWord = { w | ∃ i, decode w = .ok i } := by
  ext w
  rw [Set.mem_ofPred_eq, exists_decode_ok_iff]
  constructor
  · rintro ⟨p, rfl⟩
    refine ⟨opTable[p.1], List.getElem_mem _, ?_, ?_, ?_⟩
    · rw [rowWord, unitField_packWord]
    · rw [rowWord, opField_packWord]
    · rw [rowWord_operand]
      exact Nat.le_of_lt_succ p.2.isLt
  · rintro ⟨r, hr, hu, hop, hle⟩
    obtain ⟨k, hk, rfl⟩ := List.getElem_of_mem hr
    refine ⟨⟨⟨k, hk⟩, ⟨(argField w).toNat, Nat.lt_succ_of_le hle⟩⟩, ?_⟩
    rw [rowWord]
    simp only [Fin.getElem_fin, BitVec.ofNat_toNat, BitVec.setWidth_eq, hu, hop, packWord_fields]

/-- Settles O7: the operands of each row are counted, and no word belongs to two rows. -/
theorem numberOfLegalWords : Obligations.NumberOfLegalWords := by
  calc Nat.card { w : OpWord // ∃ i, decode w = .ok i }
      = Nat.card (Set.range rowWord) := by rw [range_rowWord]; rfl
    _ = Nat.card (Σ k : Fin opTable.length, Fin (opTable[k].top + 1)) :=
        Nat.card_range_of_injective rowWord_injective
    _ = ∑ k : Fin opTable.length, (opTable[k].top + 1) := by simp only [Nat.card_sigma, Nat.card_fin]
    _ = (opTable.map fun r => r.top + 1).sum := Fin.sum_univ_fun_getElem opTable fun r => r.top + 1
    _ = 13 + 2 * 80001 + 5 * 2 ^ 32 + 2 ^ 32 + 2 * 2 + 2 * 256 + 2 * 128 := by decide

/-! ## The operation port (R80, R81) -/

/-- Settles O1: the step takes the oldest event, and performing its word is `exec` of what the word decodes to. -/
theorem stepPerformsDecodedWord : Obligations.StepPerformsDecodedWord := by
  intro s w es i hport hd
  rw [step_event hport, performEvent, performWord, hd]

/-- A word given as its 40 bits is the word (R61, R81). -/
theorem tableWord_toNat (w : OpWord) : tableWord 40 w.toNat = w := by
  rw [tableWord, Nat.mod_eq_of_lt w.isLt, BitVec.ofNat_toNat, BitVec.setWidth_eq]

/-- Settles O2: taking the presented word leaves the state as it was. -/
theorem presentedWordIsPerformedNext : Obligations.PresentedWordIsPerformedNext := by
  intro s i hwf
  constructor
  · rw [decodeTableWord, tableWord_toNat, decode_encode hwf, Decoded.instr?]
  · rw [State.withFetchWord, tableWord_toNat, presentWord, step_encode hwf, State.setPort_self]

/-! ## The ranges of the results (R84, R87) -/

/-- The result port holds a value, and it is at most `top`: what `Spec.ResultInRange` says of a read. -/
def AtMost (top : Nat) (r : Option Word) : Prop := ∃ v, r = some v ∧ v.toNat ≤ top

theorem atMost_resPattern {n top : Nat} (hn : n ≤ top) : AtMost top (some (resPattern n)) := by
  refine ⟨_, rfl, ?_⟩
  rw [resPattern_natCast, BitVec.toNat_ofNat]
  exact (Nat.mod_le _ _).trans hn

theorem atMost_predicateValue (b : Bool) : AtMost 1 (some (resPattern (predicateValue b))) := by
  cases b
  · exact atMost_resPattern (n := 0) (by decide)
  · exact atMost_resPattern (n := 1) (by decide)

theorem atMost_resPattern_of_nonneg {v : Int} {top : Nat} (h₀ : 0 ≤ v) (h : v ≤ top) :
    AtMost top (some (resPattern v)) := by
  obtain ⟨n, rfl⟩ := Int.eq_ofNat_of_zero_le h₀
  exact atMost_resPattern (Int.ofNat_le.mp h)

/-- A shape of an Osc intermediate in range is at most 128 (R132). -/
theorem shape_le {type width : Octet} {out : Nat} (h : out ≤ 255) :
    ∃ v : Nat, shape type width out = v ∧ v ≤ 128 := by
  unfold shape Config.outMax Config.triMid
  split
  · split
    · exact ⟨127, rfl, by decide⟩
    · exact ⟨0, rfl, by decide⟩
  · split
    · exact ⟨_, rfl, by omega⟩
    · exact ⟨_, rfl, by rw [Nat.shiftRight_one]; omega⟩

/-- Settles O39, operation by operation: a write returns none, and every read has its greatest value. -/
theorem resultsStayInRange : Obligations.ResultsStayInRange := by
  intro i s t hs h
  cases i with
  | phProcess =>
    obtain ⟨-, rfl⟩ := exec_phProcess_next h
    exact atMost_resPattern (phasorOut_le hs.phPhase)
  | oscProcess =>
    cases h
    obtain ⟨v, hv, hle⟩ := shape_le (type := s.osc.type) (width := s.osc.width) (oscOut_le hs.oscPhase)
    rw [State.setRes_res, hv]
    exact atMost_resPattern hle
  | envProcess =>
    obtain ⟨-, rfl⟩ | ⟨-, rfl⟩ := exec_envProcess_next h
    · have hout : (phasorOut s.env.decay : Int) ≤ Config.outMax := Int.ofNat_le.mpr (phasorOut_le hs.decayPhase)
      exact atMost_resPattern_of_nonneg (le_min (Int.natCast_nonneg _) (Int.sub_nonneg.mpr hout)) (min_le_left _ _)
    · exact atMost_resPattern_of_nonneg (le_min (Int.natCast_nonneg _) (Int.natCast_nonneg _)) (min_le_right _ _)
  | trigProcess =>
    cases h
    rw [State.setRes_res]
    split
    · exact atMost_resPattern (Nat.le_of_lt_succ s.trig.amp.isLt)
    · exact atMost_resPattern (n := 0) (Nat.zero_le _)
  | slewProcess =>
    cases h
    obtain ⟨v, hv, hle⟩ := slewValue_level hs.slewPhase hs.fromLevel hs.toLevel
    rw [State.setRes_res, hv]
    exact atMost_resPattern hle
  | phRunning | phIsatend | oscRunning | oscIsatend => cases h; exact atMost_predicateValue _
  | phReset | phSetfreq | phSetdur | phSetloop
  | oscReset | oscSetfreq | oscSetdur | oscSetloop | oscSettype | oscSetwidth
  | envReset | envSetattack | envSetdecay
  | trigReset | trigSetwidth | trigSetamp
  | slewSet | slewSetslew => exact (exec_write_next rfl h).1

/-! ## The assembler's lines (R92, R93) -/

/-- An unsigned operand at most `top` is read as its pattern, zero-extended. -/
theorem boundedPattern_toNat {n top : Nat} (v : BitVec n) (h : v.toNat ≤ top) :
    boundedPattern top v.toNat = some (v.setWidth 32) := by
  rw [boundedPattern, if_pos ⟨Int.natCast_nonneg _, Int.ofNat_le.mpr h⟩, BitVec.ofInt_natCast, BitVec.ofNat_toNat]

theorem boundedPattern_bool (b : Bool) :
    boundedPattern 1 (if b then 1 else 0) = some (if b then 1 else 0) := by
  cases b <;> rfl

theorem signedPattern_toInt (v : Word) : signedPattern v.toInt = some v := by
  have hlo := v.le_toInt
  have hhi := v.toInt_lt
  rw [signedPattern, if_pos ⟨by omega, by omega⟩, BitVec.ofInt_toInt]

/-- An operation without a shown operand has none, and its operand field is 0 (R85). -/
theorem operandShown_none {i : Instr} (h : operandShown i = none) : takesOperand i.op = false ∧ i.arg = 0 := by
  cases i with
  | phProcess | phReset | phRunning | phIsatend
  | oscProcess | oscReset | oscRunning | oscIsatend
  | envProcess | envReset | trigProcess | trigReset | slewProcess => exact ⟨rfl, rfl⟩
  | phSetfreq | phSetdur | phSetloop
  | oscSetfreq | oscSetdur | oscSetloop | oscSettype | oscSetwidth
  | envSetattack | envSetdecay | trigSetwidth | trigSetamp
  | slewSet | slewSetslew => cases h

/-- The shown operand of a well-formed operation is read as its operand field (R85, R92). -/
theorem operandPattern_shown {i : Instr} {v : Int} (hwf : i.wellFormed = true) (h : operandShown i = some v) :
    operandPattern i.unit i.op v = some i.arg := by
  cases i with
  | phSetfreq v | oscSetfreq v =>
    cases h
    exact (boundedPattern_toNat v (of_decide_eq_true hwf)).trans (congrArg some v.setWidth_eq)
  | phSetdur v | oscSetdur v | envSetattack v | envSetdecay v | trigSetwidth v | slewSetslew v =>
    cases h
    exact signedPattern_toInt v
  | phSetloop b | oscSetloop b => cases h; exact boundedPattern_bool b
  | oscSettype v | oscSetwidth v | trigSetamp v | slewSet v =>
    cases h
    exact boundedPattern_toNat v (Nat.le_of_lt_succ v.isLt)
  | phProcess | phReset | phRunning | phIsatend
  | oscProcess | oscReset | oscRunning | oscIsatend
  | envProcess | envReset | trigProcess | trigReset | slewProcess => cases h

/-- A well-formed operation's line assembles to its word, with an operand or without (R92). -/
theorem assembleLine_renderLine {i : Instr} (hwf : i.wellFormed = true) :
    assembleLine (renderLine i) = some (encode i) := by
  rw [renderLine]
  cases h : operandShown i with
  | none =>
    obtain ⟨hnone, harg⟩ := operandShown_none h
    rw [encode, harg]
    exact assembleLine_plain i hnone
  | some v =>
    dsimp only
    rw [assembleLine_operand, operandPattern_shown hwf h, Option.map_some, encode]

/-- Settles O56: a shown operand reads back as the operand field; `TRIG.FIRE` is one fixed line. -/
theorem everyLineAssembles : Obligations.EveryLineAssembles :=
  ⟨fun _ => assembleLine_renderLine, by decide⟩

/-- A line that is an operation has a word on it. -/
theorem lineWords_ne_nil {line : String} {w : OpWord} (h : assembleLine line = some w) :
    lineWords [] line.toList ≠ [] := by
  intro hnil
  rw [assembleLine, hnil] at h
  cases h

theorem assembleProgram_renderLine {is : List Instr} (hwf : ∀ i ∈ is, i.wellFormed = true) :
    assembleProgram (is.map renderLine) = some (is.map encode) := by
  induction is with
  | nil => rfl
  | cons i is ih =>
    obtain ⟨hi, his⟩ := List.forall_mem_cons.mp hwf
    have hline := assembleLine_renderLine hi
    rw [List.map_cons, assembleProgram, if_neg (lineWords_ne_nil hline), hline, ih his, List.map_cons]

/-- Settles O57: the program assembles to the operations' words, which run in order. -/
theorem programTextRunsInOrder : Obligations.ProgramTextRunsInOrder := by
  intro is s hwf
  refine ⟨is.map encode, assembleProgram_renderLine hwf, ?_⟩
  have hwords : (is.map encode).map PortEvent.opw = wordsOf is ++ [] := by
    rw [List.map_map, List.append_nil]; rfl
  rw [hwords]
  exact core_run_wordsOf hwf [] s

end Sys2Proof.Machine
end

section
/-! PROOFS. The obligations of `40_phasor.md`: the tick of `PH` (R113, R114, R117), its writes and predicates (R118 to
R123) with those of the same form of the other units, and the runs of R124. -/

namespace Sys2Proof.Machine

/-! ## Words and constants of the statements -/

theorem PM_eq : Spec.PM = 2147483647 := rfl

/-- The word of an operation with an operand: the word of its codes, and the operand's pattern added (R81, R91). -/
theorem wordIs_add (u : UnitId) (op : OpName) {i : Instr} {c v : Nat}
    (hi : i.unit = u ∧ i.op = op ∧ i.arg.toNat = v) (hc : (packWord u.code op.code 0#32).toNat = c) :
    Spec.WordIs i (c + v) := by
  obtain ⟨rfl, rfl, rfl⟩ := hi
  rw [Spec.WordIs, encode_toNat, ← hc, packWord_toNat, BitVec.toNat_zero, Nat.add_zero]

/-! ## The tick of `PH` (R113, R114, R117) -/

/-- The ramp value of R110 as a division. -/
theorem returns_phasorOut (s : State) (p : Phasor) :
    Spec.Returns (s.setRes (some (resPattern (phasorOut p)))) (p.phase.toNat / 2 ^ 24) := by
  rw [Spec.Returns, State.setRes_res, resPattern_natCast, phasorOut, Config.phShift, Nat.shiftRight_eq_div_pow]

/-- The next phase of `PH` in the terms of R113 and R114. -/
theorem nextPhase_phWrap (loop : Bool) (sum : Nat) :
    nextPhase loop phWrap sum = if sum < Spec.PM then sum else if loop = false then Spec.PM else sum - Spec.PM := by
  cases loop <;> simp [nextPhase, phWrap, phaseMax_eq, PM_eq]

/-- Where R114 gives the tick a meaning, the next phase fits the register. -/
theorem nextPhase_phWrap_lt {loop : Bool} {p : Phasor} (h : phTickSpecified loop p = true) :
    nextPhase loop phWrap (tickSum p) < 2 ^ 32 := by
  rw [phTickSpecified_iff, phaseMax_eq] at h
  rw [nextPhase_phWrap, PM_eq]
  split
  · omega
  · split
    · decide
    · have hsum : tickSum p ≤ 2 * 2147483647 :=
        Nat.le_of_not_lt fun hover => h ⟨Bool.eq_true_of_not_eq_false ‹_›, hover⟩
      omega

/-- An advance of `PH` that R114 gives a meaning writes the next phase. -/
theorem advance_phWrap_phase {loop : Bool} {p : Phasor} (h : phTickSpecified loop p = true) :
    (advance loop phWrap p).phase.toNat =
      (if p.phase.toNat + p.delta.toNat < Spec.PM then p.phase.toNat + p.delta.toNat
        else if loop = false then Spec.PM
        else p.phase.toNat + p.delta.toNat - Spec.PM) :=
  (advance_phase_toNat (nextPhase_phWrap_lt h)).trans (nextPhase_phWrap loop (tickSum p))

/-- Settles O18, by whether R114 gives the tick a meaning. -/
theorem phProcessReadsThenAdvances : Obligations.PhProcessReadsThenAdvances := by
  intro s
  refine ⟨rfl, fun h => ?_, fun h => ?_⟩
  · have hs : phTickSpecified s.ph.loop s.ph.toPhasor = true := (phTickSpecified_iff _ _).2 h
    exact ⟨_, exec_phProcess_specified hs, returns_phasorOut _ _, advance_phWrap_phase hs, rfl, rfl,
      othersKept_ph _ _ _⟩
  · exact exec_phProcess_overwrap fun hs => (phTickSpecified_iff _ _).1 hs h

/-! ## Rates (R111, R112) -/

/-- Settles O13: a legal frequency's increment fits the register. -/
theorem setFrequencyWritesDelta : Obligations.SetFrequencyWritesDelta := by
  intro s freq
  refine ⟨⟨wordIs_add .ph .setfreq ⟨rfl, rfl, rfl⟩ rfl, wordIs_add .osc .setfreq ⟨rfl, rfl, rfl⟩ rfl⟩,
    fun h => ?_, fun h => ?_⟩
  · have hlegal : freqLegal freq = true := decide_eq_true h
    have hdelta : (freqDelta freq).toNat = 53687 * freq.toNat := freqDelta_toNat h
    have hlimit : (freqDelta freq).toNat ≤ Spec.PM ↔ freq.toNat ≤ 40000 := by rw [hdelta, PM_eq]; omega
    exact ⟨⟨_, exec_phSetfreq_legal hlegal, hdelta, hlimit, rfl, rfl, rfl, othersKept_ph _ _ _⟩,
      ⟨_, exec_oscSetfreq_legal hlegal, hdelta, rfl, rfl, rfl, rfl, rfl, othersKept_osc _ _ _⟩⟩
  · have hreserved : ¬ freqLegal freq = true := fun hf => Nat.not_le.2 h (of_decide_eq_true hf)
    exact ⟨exec_phSetfreq_reserved hreserved, exec_oscSetfreq_reserved hreserved⟩

/-- The increment a duration writes is that of R112. -/
theorem durDelta_spec (ms : Word) : (durDelta ms).toNat = Spec.durToDelta ms.toInt := durDelta_toNat ms

/-- Settles O14: the five setters write the same increment, each to a phasor of its own. -/
theorem setDurationWritesDelta : Obligations.SetDurationWritesDelta := fun _ ms =>
  ⟨⟨wordIs_add .ph .setdur ⟨rfl, rfl, rfl⟩ rfl,
      wordIs_add .osc .setdur ⟨rfl, rfl, rfl⟩ rfl,
      wordIs_add .env .setattack ⟨rfl, rfl, rfl⟩ rfl,
      wordIs_add .env .setdecay ⟨rfl, rfl, rfl⟩ rfl,
      wordIs_add .slew .setslew ⟨rfl, rfl, rfl⟩ rfl⟩,
    ⟨_, rfl, durDelta_spec ms, rfl, rfl, rfl, othersKept_ph _ _ _⟩,
    ⟨_, rfl, durDelta_spec ms, rfl, rfl, rfl, rfl, rfl, othersKept_osc _ _ _⟩,
    ⟨_, rfl, durDelta_spec ms, rfl, rfl, rfl, othersKept_env _ _ _⟩,
    ⟨_, rfl, durDelta_spec ms, rfl, rfl, rfl, othersKept_env _ _ _⟩,
    ⟨_, rfl, durDelta_spec ms, rfl, rfl, rfl, rfl, rfl, othersKept_slew _ _ _⟩⟩

/-! ## Predicates and one-field writes (R118 to R120, R123) -/

/-- A predicate is returned as 1 or 0 (R87). -/
theorem returns_predicateValue (s : State) (p : Prop) [Decidable p] :
    Spec.Returns (s.setRes (some (resPattern (predicateValue (decide p))))) (if p then 1 else 0) := by
  by_cases h : p
  · rw [decide_eq_true h, if_pos h]; rfl
  · rw [decide_eq_false h, if_neg h]; rfl

/-- Settles O15: a predicate writes the result port only. -/
theorem predicatesArePureReads : Obligations.PredicatesArePureReads := fun s =>
  ⟨⟨rfl, rfl, rfl, rfl⟩,
    ⟨_, rfl, returns_predicateValue s _, rfl, othersKept_ph s s.ph _⟩,
    ⟨_, rfl, returns_predicateValue s _, rfl, othersKept_ph s s.ph _⟩,
    ⟨_, rfl, returns_predicateValue s _, rfl, othersKept_osc s s.osc _⟩,
    ⟨_, rfl, returns_predicateValue s _, rfl, othersKept_osc s s.osc _⟩⟩

/-- The pattern of a BOOL operand (R85). -/
theorem boolArg_toNat (b : Bool) : (if b then 1 else 0 : Word).toNat = b.toNat := by cases b <;> rfl

/-- Settles O16, field by field of the two updates. -/
theorem phResetAndLoopWriteOneField : Obligations.PhResetAndLoopWriteOneField := fun _ b =>
  ⟨⟨rfl, wordIs_add .ph .setloop ⟨rfl, rfl, boolArg_toNat b⟩ rfl⟩,
    ⟨_, rfl, rfl, rfl, rfl, rfl, othersKept_ph _ _ _⟩,
    ⟨_, rfl, rfl, rfl, rfl, rfl, othersKept_ph _ _ _⟩⟩

/-! ## Runs of one operation -/

/-- A property of the number of operations performed and the state, kept by every one of them, which completes where it
holds: the operation completes any number of times. -/
theorem execTimes_invariant {i : Instr} {P : Nat → State → Prop} {s : State} (h₀ : P 0 s)
    (hstep : ∀ n t, P n t → ∃ u, exec i t = .next u ∧ P (n + 1) u) (n : Nat) :
    ∃ t, execTimes i n s = .next t ∧ P n t := by
  induction n with
  | zero => exact ⟨s, rfl, h₀⟩
  | succ n ih =>
    obtain ⟨t, ht, hP⟩ := ih
    obtain ⟨u, hu, hP'⟩ := hstep n t hP
    exact ⟨u, by rw [execTimes_succ ht, execList_singleton, hu], hP'⟩

/-! ## The one-shot run of `PH` (R124) -/

/-- A one-shot `PH` with the increment `d`, `n` operations after phase 0. -/
structure PhOneShotAfter (d n : Nat) (s : State) : Prop where
  loop : s.ph.loop = false
  delta : s.ph.delta.toNat = d
  phase : s.ph.phase.toNat = min (n * d) Spec.PM

/-- One more `PH.PROCESS` of the run completes: the value of the phase before, and the phase one increment on. -/
theorem PhOneShotAfter.exec_phProcess {d n : Nat} {s : State} (h : PhOneShotAfter d n s) :
    ∃ t, exec .phProcess s = .next t ∧ Spec.Returns t (min (n * d) Spec.PM / 2 ^ 24) ∧ PhOneShotAfter d (n + 1) t := by
  obtain ⟨hloop, hdelta, hphase⟩ := h
  obtain ⟨-, hcompletes, -⟩ := phProcessReadsThenAdvances s
  obtain ⟨t, ht, hret, hphase', hdelta', hloop', -⟩ := hcompletes (by simp [hloop])
  refine ⟨t, ht, hphase ▸ hret, hloop'.trans hloop, (congrArg _ hdelta').trans hdelta, ?_⟩
  rw [hphase', hphase, hdelta, if_pos hloop, Nat.add_mul, Nat.one_mul, PM_eq]
  split <;> omega

/-- A one-shot `PH` from phase 0 goes on for any number of operations. -/
theorem execTimes_phProcess_oneShot {s : State} (hloop : s.ph.loop = false) (hphase : s.ph.phase.toNat = 0) (n : Nat) :
    ∃ t, execTimes .phProcess n s = .next t ∧ PhOneShotAfter s.ph.delta.toNat n t :=
  execTimes_invariant ⟨hloop, rfl, by rw [hphase, Nat.zero_mul]; rfl⟩
    (fun _ _ h => let ⟨u, hu, _, h'⟩ := h.exec_phProcess; ⟨u, hu, h'⟩) n

/-- Settles O44, by the run's invariant. -/
theorem phOneShotRamp : Obligations.PhOneShotRamp := by
  intro s n hloop hphase
  obtain ⟨t, ht, hrun⟩ := execTimes_phProcess_oneShot hloop hphase n
  obtain ⟨u, hu, hret, -⟩ := hrun.exec_phProcess
  exact ⟨t, u, ht, hrun.phase, hu, hret⟩

/-! ## The end of the one-shot run (R122, R124, R248) -/

/-- `ceilDiv` is the ceiling division of the library. -/
theorem ceilDiv_le_iff {a b n : Nat} (hb : 0 < b) : Spec.ceilDiv a b ≤ n ↔ a ≤ n * b := by
  rw [Spec.ceilDiv, ← Nat.ceilDiv_eq_add_pred_div, ceilDiv_le_iff_le_mul hb, Nat.mul_comm]

/-- The run is at end where `n` increments reach `PHASE_MAX`. -/
theorem PhOneShotAfter.phaseMax_le_iff {d n : Nat} {s : State} (h : PhOneShotAfter d n s) :
    Spec.PM ≤ s.ph.phase.toNat ↔ Spec.PM ≤ n * d := by
  rw [h.phase]
  omega

/-- Settles O45: the run is at end from the first `n` whose increments reach `PHASE_MAX`, which is the ceiling. -/
theorem phOneShotEndsOnTime : Obligations.PhOneShotEndsOnTime := by
  intro s n hloop hphase hdelta
  obtain ⟨t, ht, hrun⟩ := execTimes_phProcess_oneShot hloop hphase n
  obtain ⟨v, hv, hret, -⟩ := hrun.exec_phProcess
  obtain ⟨-, -, ⟨u, hu, hpred, -⟩, -⟩ := predicatesArePureReads t
  simp only [ceilDiv_le_iff hdelta]
  simp only [hrun.phaseMax_le_iff] at hpred
  refine ⟨t, u, v, ht, hu, hpred, hv, fun hend => ?_⟩
  rwa [Nat.min_eq_right hend] at hret

/-- For a duration of 1 to 1148 ms, `40 * ms` increments stay below `PHASE_MAX` and one more reaches it (R248). The size
of the remainder that the division drops decides the second: up to 1114 ms any remainder will do, and the rest are
looked at one by one. -/
theorem durToDelta_brackets_phaseMax {m : Nat} (h₁ : 1 ≤ m) (h₂ : m ≤ 1148) :
    40 * m * (53687000 / m) < Spec.PM ∧ Spec.PM ≤ (40 * m + 1) * (53687000 / m) := by
  have hdiv : m * (53687000 / m) + 53687000 % m = 53687000 := Nat.div_add_mod _ _
  have hmod : 53687000 % m < m := Nat.mod_lt _ h₁
  rw [Nat.add_mul, Nat.one_mul, Nat.mul_assoc, PM_eq]
  refine ⟨by omega, ?_⟩
  by_cases hm : m ≤ 1114
  · have hq : 53687000 / 1114 ≤ 53687000 / m := Nat.div_le_div_left hm h₁
    omega
  · have hlong : ∀ k < 34, 53687000 % (1115 + k) * 40 + 3647 ≤ 53687000 / (1115 + k) := by decide
    have hr := hlong (m - 1115) (by omega)
    rw [Nat.add_sub_of_le (Nat.lt_of_not_le hm)] at hr
    omega

/-- Settles O46: `PH.SETDUR` starts a one-shot run, and R248 bounds its increment from both sides. -/
theorem durationTakesFortyPerMillisecondPlusOne : Obligations.DurationTakesFortyPerMillisecondPlusOne := by
  intro s t ms n h₁ h₂ hloop hphase ht
  obtain ⟨-, ⟨t', ht', hdelta, hphase', hloop', -⟩, -⟩ := setDurationWritesDelta s ms
  obtain rfl : t = t' := Host.Outcome.next.inj (ht.symm.trans ht')
  obtain ⟨u, hu, hrun⟩ := execTimes_phProcess_oneShot (hloop'.trans hloop) ((congrArg _ hphase').trans hphase) n
  refine ⟨u, hu, ?_⟩
  obtain ⟨m, hm⟩ := Int.eq_ofNat_of_zero_le (Int.le_trans (by decide) h₁)
  rw [hm] at h₁ h₂ hdelta ⊢
  have hd : t.ph.delta.toNat = 53687000 / m := hdelta.trans (if_neg (by omega))
  obtain ⟨hbelow, hreach⟩ := durToDelta_brackets_phaseMax (m := m) (by omega) (by omega)
  calc isAtEnd u.ph.toPhasor = true
      ↔ Spec.PM ≤ u.ph.phase.toNat := decide_eq_true_iff
    _ ↔ Spec.PM ≤ n * (53687000 / m) := hd ▸ hrun.phaseMax_le_iff
    _ ↔ 40 * m + 1 ≤ n :=
        ⟨fun h => Nat.lt_of_mul_lt_mul_right (Nat.lt_of_lt_of_le hbelow h),
          fun h => Nat.le_trans hreach (Nat.mul_le_mul_right _ h)⟩
    _ ↔ 40 * (m : Int) + 1 ≤ n := by omega

/-! ## The looping run of `PH` (R124, R244) -/

/-- A looping `PH` with the increment `d`, `n` operations after phase 0. -/
structure PhLoopingAfter (d n : Nat) (s : State) : Prop where
  loop : s.ph.loop = true
  delta : s.ph.delta.toNat = d
  phase : s.ph.phase.toNat = n * d % Spec.PM

/-- One more `PH.PROCESS` of the run completes: with an increment of at most `PHASE_MAX` one subtraction leaves the
remainder. -/
theorem PhLoopingAfter.exec_phProcess {d n : Nat} {s : State} (hd : d ≤ Spec.PM) (h : PhLoopingAfter d n s) :
    ∃ t, exec .phProcess s = .next t ∧ PhLoopingAfter d (n + 1) t := by
  obtain ⟨hloop, hdelta, hphase⟩ := h
  obtain ⟨-, hcompletes, -⟩ := phProcessReadsThenAdvances s
  obtain ⟨t, ht, -, hphase', hdelta', hloop', -⟩ := hcompletes fun ⟨_, hover⟩ => by
    have hlt : n * d % Spec.PM < Spec.PM := Nat.mod_lt _ (by decide)
    omega
  refine ⟨t, ht, hloop'.trans hloop, (congrArg _ hdelta').trans hdelta, ?_⟩
  rw [hphase', hphase, hdelta, hloop, if_neg Bool.true_eq_false.mp, Nat.add_mul, Nat.one_mul, PM_eq]
  rw [PM_eq] at hd
  split <;> omega

/-- Settles O47, by the run's invariant. -/
theorem phLoopingPhase : Obligations.PhLoopingPhase := by
  intro s n hloop hphase hdelta
  obtain ⟨t, ht, hrun⟩ := execTimes_invariant (i := .phProcess) (P := PhLoopingAfter s.ph.delta.toNat)
    ⟨hloop, rfl, by rw [hphase, Nat.zero_mul, Nat.zero_mod]⟩ (fun _ _ h => h.exec_phProcess hdelta) n
  exact ⟨t, ht, hrun.phase, hrun.phase ▸ Nat.mod_lt _ (by decide)⟩

end Sys2Proof.Machine
end

section
/-! PROOFS. The obligations of `41_osc.md`: the multi-wrap loop (R131), the shapes (R132), the tick of `OSC` (R133), its
one-field writes (R134, R139 to R141), and the looping run of R142. -/

namespace Sys2Proof.Machine

/-! ## The multi-wrap loop (R131) -/

/-- Settles O20: a sum below `4 * PHASE_MAX` needs three turns, and four leave the same remainder. -/
theorem oscWrapEndsInThreeTurns : Obligations.OscWrapEndsInThreeTurns := by
  intro sum hsum
  rw [PM_eq] at hsum
  have hthree : oscWrapLoop 3 sum = sum % Spec.PM := oscWrapLoop_mod 3 sum (by rw [phaseMax_eq]; omega)
  have hfour : oscWrap sum = sum % Spec.PM := oscWrap_mod (by omega)
  exact ⟨hthree, hthree ▸ Nat.mod_lt _ (by decide), hfour.trans hthree.symm⟩

/-- The next phase of `OSC` in the terms of R113 and R131. -/
theorem nextPhase_oscWrap (loop : Bool) {sum : Nat} (h : sum < 2 ^ 33) :
    nextPhase loop oscWrap sum = if sum < Spec.PM then sum else if loop = false then Spec.PM else sum % Spec.PM := by
  cases loop <;> simp [nextPhase, oscWrap_mod h, phaseMax_eq, PM_eq]

/-- An advance of `OSC` writes the next phase, from any two patterns. -/
theorem advance_oscWrap_phase (loop : Bool) (p : Phasor) :
    (advance loop oscWrap p).phase.toNat =
      (if p.phase.toNat + p.delta.toNat < Spec.PM then p.phase.toNat + p.delta.toNat
        else if loop = false then Spec.PM
        else (p.phase.toNat + p.delta.toNat) % Spec.PM) := by
  have hnext := nextPhase_oscWrap loop (tickSum_lt p)
  refine (advance_phase_toNat ?_).trans hnext
  rw [hnext, PM_eq]
  split
  · omega
  · split
    · decide
    · omega

/-- A looping advance of `OSC` is the remainder, wrapped or not (R131). -/
theorem advance_oscWrap_looping {loop : Bool} (hloop : loop = true) (p : Phasor) :
    (advance loop oscWrap p).phase.toNat = (p.phase.toNat + p.delta.toNat) % Spec.PM := by
  rw [advance_oscWrap_phase, hloop, if_neg Bool.true_eq_false.mp]
  exact ite_eq_right_iff.2 fun h => (Nat.mod_eq_of_lt h).symm

/-! ## The shapes (R130, R132) -/

/-- The shape is the natural-number formula of R132. -/
theorem shape_natCast (type width : Octet) (out : Nat) :
    shape type width out = (Spec.shape type.toNat width.toNat out : Nat) := by
  unfold shape Spec.shape Config.outMax Config.triMid
  split
  · split <;> rfl
  · split
    · split <;> omega
    · rw [Nat.shiftRight_one]

/-- The result of `OSC.PROCESS`: the shape of the phase divided by `2^23` (R130, R132). -/
theorem returns_shape (s : State) (o : OscUnit) :
    Spec.Returns (s.setRes (some (resPattern (shape o.type o.width (oscOut o.toPhasor)))))
      (Spec.shape o.type.toNat o.width.toNat (o.phase.toNat / 2 ^ 23)) := by
  rw [Spec.Returns, State.setRes_res, shape_natCast, resPattern_natCast, oscOut, Config.oscShift,
    Nat.shiftRight_eq_div_pow]

theorem oscOut_eq_zero_iff (p : Phasor) : oscOut p = 0 ↔ p.phase.toNat < 2 ^ 23 := by
  rw [oscOut, Config.oscShift, Nat.shiftRight_eq_div_pow, Nat.div_eq_zero_iff_lt (by decide)]

/-- Of the shapes of an Osc intermediate in range, the triangle at 0 alone exceeds 127 (R132, C2). -/
theorem outMax_lt_shape_iff {type width : Octet} {out : Nat} (h : out ≤ 255) :
    127 < shape type width out ↔ type.toNat = 1 ∧ out = 0 := by
  rw [shape_natCast, Spec.shape]
  split
  · split <;> omega
  · split
    · split <;> omega
    · omega

/-- Settles O40: the result is the shape, which is at most 128 and so keeps its value in the result port. -/
theorem oscExceedsOnlyOnTriangleStart : Obligations.OscExceedsOnlyOnTriangleStart := by
  intro s t v hs h hv
  have hout := oscOut_le hs.oscPhase
  obtain ⟨n, hn, hle⟩ := shape_le (type := s.osc.type) (width := s.osc.width) hout
  cases h
  rw [State.setRes_res, hn, resPattern_natCast] at hv
  cases hv
  calc 127 < (BitVec.ofNat 32 n).toNat
      ↔ (127 : Int) < n := by rw [BitVec.toNat_ofNat]; omega
    _ ↔ 127 < shape s.osc.type s.osc.width (oscOut s.osc.toPhasor) := by rw [hn]
    _ ↔ s.osc.type.toNat = 1 ∧ oscOut s.osc.toPhasor = 0 := outMax_lt_shape_iff hout
    _ ↔ s.osc.type.toNat = 1 ∧ s.osc.phase.toNat < 2 ^ 23 := and_congr_right' (oscOut_eq_zero_iff _)

/-! ## The operations of `OSC` (R133, R134, R139 to R141) -/

/-- Settles O19: the shape of the phase before, and the advance by the multi-wrap loop. -/
theorem oscProcessShapesAndMultiWraps : Obligations.OscProcessShapesAndMultiWraps := fun s =>
  ⟨rfl, _, rfl, returns_shape _ s.osc, advance_oscWrap_phase _ _,
    fun hloop => (advance_oscWrap_looping hloop s.osc.toPhasor).symm ▸ Nat.mod_lt _ (by decide),
    rfl, rfl, rfl, rfl, othersKept_osc _ _ _⟩

/-- The pattern of a U8 operand (R85). -/
theorem octetArg_toNat (v : Octet) : (v.setWidth 32).toNat = v.toNat := BitVec.toNat_setWidth_of_le (by decide)

/-- Settles O17, field by field of the four updates. -/
theorem oscWritesOneField : Obligations.OscWritesOneField := fun _ b v =>
  ⟨⟨rfl,
      wordIs_add .osc .setloop ⟨rfl, rfl, boolArg_toNat b⟩ rfl,
      wordIs_add .osc .settype ⟨rfl, rfl, octetArg_toNat v⟩ rfl,
      wordIs_add .osc .setwidth ⟨rfl, rfl, octetArg_toNat v⟩ rfl⟩,
    ⟨_, rfl, rfl, rfl, rfl, rfl, rfl, rfl, othersKept_osc _ _ _⟩,
    ⟨_, rfl, rfl, rfl, rfl, rfl, rfl, othersKept_osc _ _ _⟩,
    ⟨_, rfl, rfl, rfl, rfl, rfl, rfl, othersKept_osc _ _ _⟩,
    ⟨_, rfl, rfl, rfl, rfl, rfl, rfl, othersKept_osc _ _ _⟩⟩

/-! ## The looping run of `OSC` (R142) -/

/-- The looping Osc `o`, `n` operations after phase 0: only its phase has moved. -/
structure OscLoopingAfter (o : OscUnit) (n : Nat) (s : State) : Prop where
  loop : s.osc.loop = true
  delta : s.osc.delta = o.delta
  type : s.osc.type = o.type
  width : s.osc.width = o.width
  phase : s.osc.phase.toNat = n * o.delta.toNat % Spec.PM

/-- One more `OSC.PROCESS` of the run completes, for every increment: the shape of the phase before, and the phase one
increment on. -/
theorem OscLoopingAfter.exec_oscProcess {o : OscUnit} {n : Nat} {s : State} (h : OscLoopingAfter o n s) :
    ∃ t, exec .oscProcess s = .next t ∧
      Spec.Returns t (Spec.shape o.type.toNat o.width.toNat (n * o.delta.toNat % Spec.PM / 2 ^ 23)) ∧
      OscLoopingAfter o (n + 1) t := by
  obtain ⟨hloop, hdelta, htype, hwidth, hphase⟩ := h
  refine ⟨_, rfl, ?_, hloop, hdelta, htype, hwidth, ?_⟩
  · rw [← htype, ← hwidth, ← hphase]
    exact returns_shape _ s.osc
  · calc (advance s.osc.loop oscWrap s.osc.toPhasor).phase.toNat
        = (s.osc.phase.toNat + s.osc.delta.toNat) % Spec.PM := advance_oscWrap_looping hloop _
      _ = (n * o.delta.toNat % Spec.PM + o.delta.toNat) % Spec.PM := by rw [hphase, hdelta]
      _ = (n + 1) * o.delta.toNat % Spec.PM := by rw [Nat.mod_add_mod, Nat.add_one_mul]

/-- Settles O48, by the run's invariant. -/
theorem oscLoopingRun : Obligations.OscLoopingRun := by
  intro s n hloop hphase
  obtain ⟨t, ht, hrun⟩ := execTimes_invariant (i := .oscProcess) (P := OscLoopingAfter s.osc)
    ⟨hloop, rfl, rfl, rfl, by rw [hphase, Nat.zero_mul, Nat.zero_mod]⟩
    (fun _ _ h => let ⟨u, hu, _, h'⟩ := h.exec_oscProcess; ⟨u, hu, h'⟩) n
  obtain ⟨u, hu, hret, -⟩ := hrun.exec_oscProcess
  exact ⟨t, u, ht, hrun.phase, hu, hret⟩

end Sys2Proof.Machine
end

section
/-! PROOFS. The obligations of `42_env.md`: `ENV.PROCESS` and `ENV.RESET` (R152, R153), the states of the envelope and
their transitions (R151), and the run of R156. -/

namespace Sys2Proof.Machine

/-! ## The states of the envelope (R151) -/

theorem isAtEnd_iff (p : Phasor) : isAtEnd p = true ↔ Spec.PM ≤ p.phase.toNat := decide_eq_true_iff

theorem not_isAtEnd_iff (p : Phasor) : ¬ isAtEnd p = true ↔ p.phase.toNat < Spec.PM := by
  rw [isAtEnd_iff, Nat.not_le]

theorem envPhase_attacking {e : EnvUnit} (h : ¬ isAtEnd e.attack = true) : envPhase e = .attacking := if_neg h

theorem envPhase_attacked {e : EnvUnit} (h : isAtEnd e.attack = true) :
    envPhase e = if isAtEnd e.decay then .idle else .decaying := if_pos h

/-- The state depends on the two phases alone. -/
theorem envPhase_congr {e e' : EnvUnit} (ha : e'.attack.phase = e.attack.phase)
    (hd : e'.decay.phase = e.decay.phase) : envPhase e' = envPhase e := by
  unfold envPhase isAtEnd
  rw [ha, hd]

/-- A one-shot phasor at end stays there (R113). -/
theorem isAtEnd_advanceOneShot {p : Phasor} (h : isAtEnd p = true) : isAtEnd (advanceOneShot p) = true := by
  rw [isAtEnd_iff, PM_eq] at h ⊢
  rw [advanceOneShot_phase, phaseMax_eq, tickSum]
  omega

/-! ## `ENV.PROCESS` and `ENV.RESET` (R152, R153) -/

/-- `ENV.PROCESS` while the attack is not at end: the ramp value, which a phase below `PHASE_MAX` keeps at most 127. -/
theorem exec_envProcess_of_lt {s : State} (h : s.env.attack.phase.toNat < Spec.PM) :
    ∃ t, exec .envProcess s = .next t ∧ Spec.Returns t (s.env.attack.phase.toNat / 2 ^ 24) ∧
      OthersKept .env s t ∧ t.env = { s.env with attack := advanceOneShot s.env.attack } := by
  have hout : phasorOut s.env.attack ≤ Config.outMax := phasorOut_le (Nat.le_of_lt h)
  refine ⟨_, exec_envProcess_attacking ((not_isAtEnd_iff _).2 h), ?_, othersKept_env _ _ _, rfl⟩
  rw [min_eq_left (Int.ofNat_le.2 hout)]
  exact returns_phasorOut _ _

/-- `ENV.PROCESS` once the attack is at end: 127 less the ramp value of the decay, which a phase in range keeps at most
127. -/
theorem exec_envProcess_of_ge {s : State} (h : Spec.PM ≤ s.env.attack.phase.toNat)
    (hdecay : s.env.decay.phase.toNat ≤ Spec.PM) :
    ∃ t, exec .envProcess s = .next t ∧ Spec.Returns t (127 - s.env.decay.phase.toNat / 2 ^ 24) ∧
      OthersKept .env s t ∧ t.env = { s.env with decay := advanceOneShot s.env.decay } := by
  have hout : phasorOut s.env.decay ≤ 127 := phasorOut_le hdecay
  have hvalue : min (Config.outMax : Int) (Config.outMax - phasorOut s.env.decay) =
      (127 - phasorOut s.env.decay : Nat) := by
    rw [Config.outMax]
    omega
  refine ⟨_, exec_envProcess_atEnd ((isAtEnd_iff _).2 h), ?_, othersKept_env _ _ _, rfl⟩
  rw [Spec.Returns, State.setRes_res, hvalue, resPattern_natCast, phasorOut, Config.phShift,
    Nat.shiftRight_eq_div_pow]

/-- Settles O21, by whether the attack is at end. -/
theorem envProcessAttackThenDecay : Obligations.EnvProcessAttackThenDecay := by
  intro s hs
  refine ⟨rfl, ?_⟩
  by_cases h : s.env.attack.phase.toNat < Spec.PM
  · obtain ⟨t, ht, hret, hothers, henv⟩ := exec_envProcess_of_lt h
    refine ⟨t, ht, hothers, ?_⟩
    rw [henv]
    exact ⟨rfl, rfl, fun _ => ⟨hret, rfl, advanceOneShot_phase _⟩, fun hle => absurd h (Nat.not_lt.2 hle)⟩
  · obtain ⟨t, ht, hret, hothers, henv⟩ := exec_envProcess_of_ge (Nat.le_of_not_lt h) hs.decayPhase
    refine ⟨t, ht, hothers, ?_⟩
    rw [henv]
    exact ⟨rfl, rfl, (absurd · h), fun _ => ⟨hret, rfl, advanceOneShot_phase _⟩⟩

/-- Settles O22, field by field of the update. -/
theorem envResetZeroesBothPhases : Obligations.EnvResetZeroesBothPhases := fun _ =>
  ⟨rfl, _, rfl, rfl, rfl, rfl, rfl, rfl, othersKept_env _ _ _⟩

/-! ## The transitions of the envelope (R151) -/

/-- What an operation can do to the two phases: nothing, the zeros of `ENV.RESET`, or one advance of `ENV.PROCESS`. -/
theorem exec_envPhases_cases {i : Instr} {s t : State} (h : exec i s = .next t) :
    (t.env.attack.phase = s.env.attack.phase ∧ t.env.decay.phase = s.env.decay.phase) ∨
    (i = .envReset ∧ t.env.attack.phase = 0 ∧ t.env.decay.phase = 0) ∨
    (i = .envProcess ∧ ¬ isAtEnd s.env.attack = true ∧ t.env.decay = s.env.decay) ∨
    (i = .envProcess ∧ isAtEnd s.env.attack = true ∧ t.env.attack = s.env.attack ∧
      t.env.decay = advanceOneShot s.env.decay) := by
  cases i with
  | envReset => cases h; exact .inr (.inl ⟨rfl, rfl, rfl⟩)
  | envProcess =>
    obtain ⟨hend, rfl⟩ | ⟨hend, rfl⟩ := exec_envProcess_next h
    · exact .inr (.inr (.inr ⟨rfl, hend, rfl, rfl⟩))
    · exact .inr (.inr (.inl ⟨rfl, ne_true_of_eq_false hend, rfl⟩))
  | envSetattack | envSetdecay => cases h; exact .inl ⟨rfl, rfl⟩
  | phProcess | phReset | phSetfreq | phSetdur | phRunning | phIsatend | phSetloop
  | oscProcess | oscReset | oscSetfreq | oscSetdur | oscRunning | oscIsatend | oscSetloop | oscSettype | oscSetwidth
  | trigProcess | trigReset | trigSetwidth | trigSetamp
  | slewProcess | slewSet | slewSetslew =>
    have henv : t.env = s.env := (operationsStayInTheirUnit _ s t h).env nofun
    rw [henv]
    exact .inl ⟨rfl, rfl⟩

/-- Where the decay has waited, it is not at end before the attack is. -/
theorem State.DecayHeld.decay_not_isAtEnd {s : State} (hs : s.DecayHeld) (h : ¬ isAtEnd s.env.attack = true) :
    ¬ isAtEnd s.env.decay = true := by
  rw [not_isAtEnd_iff, hs ((not_isAtEnd_iff _).1 h)]
  decide

theorem reset_decayHeld : State.reset.DecayHeld := fun _ => rfl

/-- Every operation that completes lets the decay wait: the one that moves it does so with the attack at end. -/
theorem exec_keeps_decayHeld {i : Instr} {s t : State} (hs : s.DecayHeld) (h : exec i s = .next t) : t.DecayHeld := by
  intro hlt
  obtain ⟨hattack, hdecay⟩ | ⟨-, -, hdecay⟩ | ⟨-, hattacking, hdecay⟩ | ⟨-, hend, hattack, -⟩ := exec_envPhases_cases h
  · rw [hdecay]
    exact hs (hattack ▸ hlt)
  · rw [hdecay]
    rfl
  · rw [hdecay]
    exact hs ((not_isAtEnd_iff _).1 hattacking)
  · exact absurd hend ((not_isAtEnd_iff _).2 (hattack ▸ hlt))

/-- Settles O31, by one operation and the packaged step. -/
theorem decayWaitsForAttack : Obligations.DecayWaitsForAttack :=
  ⟨reset_decayHeld, fun _ _ => step_keeps (fun _ _ hs => hs) reset_decayHeld fun _ _ _ => exec_keeps_decayHeld⟩

/-- Settles O32: an attack that ends finds the decay at 0, and a decay at end stays there. -/
theorem envelopeTransitions : Obligations.EnvelopeTransitions := by
  intro i s t hs h hne
  obtain ⟨hattack, hdecay⟩ | ⟨hi, hattack, -⟩ | ⟨hi, hattacking, hdecay⟩ | ⟨hi, hend, hattack, hdecay⟩ :=
    exec_envPhases_cases h
  · exact absurd (envPhase_congr hattack hdecay) hne
  · have hzero : ¬ isAtEnd t.env.attack = true := by rw [not_isAtEnd_iff, hattack]; decide
    exact .inr (.inr ⟨hi, envPhase_attacking hzero⟩)
  · have hs₀ : envPhase s.env = .attacking := envPhase_attacking hattacking
    have hend : isAtEnd t.env.attack = true := by
      by_contra hlt
      exact hne ((envPhase_attacking hlt).trans hs₀.symm)
    refine .inl ⟨hi, hs₀, ?_⟩
    rw [envPhase_attacked hend, hdecay, if_neg (hs.decay_not_isAtEnd hattacking)]
  · rw [envPhase_attacked hend, envPhase_attacked (hattack ▸ hend), hdecay] at hne ⊢
    by_cases hdone : isAtEnd s.env.decay = true
    · exact absurd (by rw [if_pos hdone, if_pos (isAtEnd_advanceOneShot hdone)]) hne
    · rw [if_neg hdone] at hne ⊢
      exact .inr (.inl ⟨hi, rfl, (ite_eq_or_eq _ _ _).resolve_right hne⟩)

/-! ## The run of the envelope (R156) -/

/-- The envelope with the increments `a` and `d`, `n` operations after both phases 0. The decay has been processed
`n - Na` times, none while `n` is at most `Na`. -/
structure EnvelopeAfter (a d n : Nat) (s : State) : Prop where
  attackDelta : s.env.attack.delta.toNat = a
  decayDelta : s.env.decay.delta.toNat = d
  attackPhase : s.env.attack.phase.toNat = min (n * a) Spec.PM
  decayPhase : s.env.decay.phase.toNat = min ((n - Spec.ceilDiv Spec.PM a) * d) Spec.PM

/-- A one-shot phasor at a clamped multiple of its increment goes on to the next one. -/
theorem advanceOneShot_multiple {p : Phasor} {d n : Nat} (hdelta : p.delta.toNat = d)
    (hphase : p.phase.toNat = min (n * d) Spec.PM) :
    (advanceOneShot p).phase.toNat = min ((n + 1) * d) Spec.PM := by
  rw [advanceOneShot_phase, tickSum, hphase, hdelta, Nat.add_one_mul, phaseMax_eq, PM_eq]
  omega

section
variable {a d n : Nat} {s : State}

/-- The attack is at end from operation `Na` on. -/
theorem EnvelopeAfter.attack_end_iff (h : EnvelopeAfter a d n s) (ha : 0 < a) :
    Spec.PM ≤ s.env.attack.phase.toNat ↔ Spec.ceilDiv Spec.PM a ≤ n := by
  rw [h.attackPhase, ceilDiv_le_iff ha]
  omega

/-- Once the attack is at end, the decay is at end from operation `Na + Nd` on. -/
theorem EnvelopeAfter.decay_end_iff (h : EnvelopeAfter a d n s) (hd : 0 < d) (hn : Spec.ceilDiv Spec.PM a ≤ n) :
    Spec.PM ≤ s.env.decay.phase.toNat ↔ Spec.ceilDiv Spec.PM a + Spec.ceilDiv Spec.PM d ≤ n := by
  rw [h.decayPhase, ← Nat.le_sub_iff_add_le' hn, ceilDiv_le_iff hd]
  omega

/-- An operation of the run before `Na`: it returns the attack's multiple and advances the attack. -/
theorem EnvelopeAfter.exec_attacking (h : EnvelopeAfter a d n s) (ha : 0 < a) (hn : n < Spec.ceilDiv Spec.PM a) :
    ∃ t, exec .envProcess s = .next t ∧ Spec.Returns t (n * a / 2 ^ 24) ∧ EnvelopeAfter a d (n + 1) t := by
  have hlt : s.env.attack.phase.toNat < Spec.PM :=
    Nat.lt_of_not_le fun hend => Nat.not_le.2 hn ((h.attack_end_iff ha).1 hend)
  obtain ⟨hda, hdd, hattack, hdecay⟩ := h
  obtain ⟨t, ht, hret, -, henv⟩ := exec_envProcess_of_lt hlt
  refine ⟨t, ht, ?_, ?_⟩
  · have hphase : s.env.attack.phase.toNat = n * a := by omega
    rwa [hphase] at hret
  · constructor <;> rw [henv]
    · exact hda
    · exact hdd
    · exact advanceOneShot_multiple hda hattack
    · rw [hdecay, Nat.sub_eq_zero_of_le (Nat.le_of_lt hn), Nat.sub_eq_zero_of_le hn]

/-- An operation of the run from `Na` on: it returns 127 less the decay's multiple and advances the decay. -/
theorem EnvelopeAfter.exec_attacked (h : EnvelopeAfter a d n s) (ha : 0 < a) (hn : Spec.ceilDiv Spec.PM a ≤ n) :
    ∃ t, exec .envProcess s = .next t ∧
      Spec.Returns t (127 - min ((n - Spec.ceilDiv Spec.PM a) * d) Spec.PM / 2 ^ 24) ∧ EnvelopeAfter a d (n + 1) t := by
  have hend : Spec.PM ≤ s.env.attack.phase.toNat := (h.attack_end_iff ha).2 hn
  obtain ⟨hda, hdd, hattack, hdecay⟩ := h
  obtain ⟨t, ht, hret, -, henv⟩ := exec_envProcess_of_ge hend (hdecay ▸ Nat.min_le_right _ _)
  refine ⟨t, ht, hdecay ▸ hret, ?_⟩
  constructor <;> rw [henv]
  · exact hda
  · exact hdd
  · rw [hattack, Nat.add_one_mul]
    omega
  · rw [Nat.sub_add_comm hn]
    exact advanceOneShot_multiple hdd hdecay

/-- Every operation of the run completes, with the result of R156. -/
theorem EnvelopeAfter.exec_envProcess (h : EnvelopeAfter a d n s) (ha : 0 < a) :
    ∃ t, exec .envProcess s = .next t ∧
      (n < Spec.ceilDiv Spec.PM a → Spec.Returns t (n * a / 2 ^ 24)) ∧
      (Spec.ceilDiv Spec.PM a ≤ n →
        Spec.Returns t (127 - min ((n - Spec.ceilDiv Spec.PM a) * d) Spec.PM / 2 ^ 24)) ∧
      EnvelopeAfter a d (n + 1) t := by
  by_cases hn : n < Spec.ceilDiv Spec.PM a
  · obtain ⟨t, ht, hret, h'⟩ := h.exec_attacking ha hn
    exact ⟨t, ht, fun _ => hret, fun hle => absurd hn (Nat.not_lt.2 hle), h'⟩
  · obtain ⟨t, ht, hret, h'⟩ := h.exec_attacked ha (Nat.le_of_not_lt hn)
    exact ⟨t, ht, (absurd · hn), fun _ => hret, h'⟩

/-- The state of the envelope after `n` operations of the run. -/
theorem EnvelopeAfter.envPhase_eq (h : EnvelopeAfter a d n s) (ha : 0 < a) (hd : 0 < d) :
    envPhase s.env = if n < Spec.ceilDiv Spec.PM a then .attacking
      else if n < Spec.ceilDiv Spec.PM a + Spec.ceilDiv Spec.PM d then .decaying else .idle := by
  have hattack : isAtEnd s.env.attack = true ↔ Spec.ceilDiv Spec.PM a ≤ n :=
    (isAtEnd_iff _).trans (h.attack_end_iff ha)
  by_cases hn : n < Spec.ceilDiv Spec.PM a
  · rw [if_pos hn]
    exact envPhase_attacking fun hend => Nat.not_le.2 hn (hattack.1 hend)
  · have hle : Spec.ceilDiv Spec.PM a ≤ n := Nat.le_of_not_lt hn
    have hdecay : isAtEnd s.env.decay = true ↔ Spec.ceilDiv Spec.PM a + Spec.ceilDiv Spec.PM d ≤ n :=
      (isAtEnd_iff _).trans (h.decay_end_iff hd hle)
    rw [if_neg hn, envPhase_attacked (hattack.2 hle)]
    simp only [hdecay, ← Nat.not_lt, ite_not]

end

/-- Settles O49, by the run's invariant. -/
theorem envelopeRun : Obligations.EnvelopeRun := by
  intro s n a d hattack hdecay hda hdd ha hd
  have hstart : EnvelopeAfter a d 0 s :=
    ⟨hda, hdd, by rw [hattack, Nat.zero_mul]; rfl, by rw [hdecay, Nat.zero_sub, Nat.zero_mul]; rfl⟩
  obtain ⟨t, ht, hrun⟩ := execTimes_invariant hstart
    (fun _ _ h => let ⟨u, hu, _, _, h'⟩ := h.exec_envProcess ha; ⟨u, hu, h'⟩) n
  obtain ⟨u, hu, hup, hdown, -⟩ := hrun.exec_envProcess ha
  exact ⟨t, u, ht, hu, hup, hdown, hrun.envPhase_eq ha hd⟩

end Sys2Proof.Machine
end

section
/-! PROOFS. The obligations of `43_triggen.md`: `TRIG.PROCESS` (R166), the one-field writes (R167 to R169), the pulse and
the silence before it (R165, R170). -/

namespace Sys2Proof.Machine

/-! ## The operations of `TRIG` (R166 to R169) -/

/-- The result of `TRIG.PROCESS`: the amplitude where the counter is below the width (R166). -/
theorem returns_amp (s : State) (u : TrigUnit) :
    Spec.Returns (s.setRes (some (resPattern (if firing u then (u.amp.toNat : Int) else 0))))
      (if u.ssf.toInt < u.width.toInt then u.amp.toNat else 0) := by
  have hfiring : firing u = true ↔ u.ssf.toInt < u.width.toInt := decide_eq_true_iff
  simp only [hfiring]
  split
  · exact congrArg some (resPattern_natCast _)
  · rfl

/-- Settles O23: the register holds the saturated count, and the result compares what it holds. -/
theorem trigProcessCountsAndCompares : Obligations.TrigProcessCountsAndCompares := by
  intro s
  have hssf := ssfTick_toInt s.trig.ssf
  rw [ssfMax_eq] at hssf
  refine ⟨rfl, _, rfl, hssf, ?_, rfl, rfl, othersKept_trig _ _ _⟩
  rw [← hssf]
  exact returns_amp _ { s.trig with ssf := BitVec.ofInt 32 (ssfTick (signedValue s.trig.ssf)) }

/-- The pattern of a U7 operand (R85). -/
theorem septetArg_toNat (v : Septet) : (v.setWidth 32).toNat = v.toNat := BitVec.toNat_setWidth_of_le (by decide)

/-- `TRIG.RESET` writes -1 (R167). -/
theorem firedSsf_toInt : (BitVec.ofInt 32 (-1)).toInt = -1 := by decide

/-- Settles O24, field by field of the three updates. -/
theorem trigWritesOneField : Obligations.TrigWritesOneField := fun _ _ a =>
  ⟨⟨rfl,
      wordIs_add .trig .setwidth ⟨rfl, rfl, rfl⟩ rfl,
      wordIs_add .trig .setamp ⟨rfl, rfl, septetArg_toNat a⟩ rfl⟩,
    ⟨_, rfl, firedSsf_toInt, rfl, rfl, rfl, othersKept_trig _ _ _⟩,
    ⟨_, rfl, rfl, rfl, rfl, rfl, othersKept_trig _ _ _⟩,
    ⟨_, rfl, rfl, rfl, rfl, rfl, othersKept_trig _ _ _⟩⟩

/-! ## The pulse (R170) -/

/-- The `TRIG` unit with the width and amplitude of `u`, `n` operations after `TRIG.RESET`. -/
structure FiredAfter (u : TrigUnit) (n : Nat) (s : State) : Prop where
  width : s.trig.width = u.width
  amp : s.trig.amp = u.amp
  ssf : s.trig.ssf.toInt = min ((n : Int) - 1) 2147483647

/-- One more `TRIG.PROCESS` of the run completes. No width exceeds `SSF_MAX`, so the saturated count is below the width
exactly where the unbounded one is. -/
theorem FiredAfter.exec_trigProcess {u : TrigUnit} {n : Nat} {s : State} (h : FiredAfter u n s) :
    ∃ t, exec .trigProcess s = .next t ∧
      Spec.Returns t (if (n : Int) + 1 ≤ u.width.toInt then u.amp.toNat else 0) ∧ FiredAfter u (n + 1) t := by
  obtain ⟨hwidth, hamp, hssf⟩ := h
  obtain ⟨-, t, ht, hssf', hret, hwidth', hamp', -⟩ := trigProcessCountsAndCompares s
  have hcount : min (s.trig.ssf.toInt + 1) 2147483647 = min (n : Int) 2147483647 := by omega
  have hpulse : min (n : Int) 2147483647 < u.width.toInt ↔ (n : Int) + 1 ≤ u.width.toInt := by
    have hmax := u.width.toInt_lt
    omega
  refine ⟨t, ht, ?_, hwidth'.trans hwidth, hamp'.trans hamp, ?_⟩
  · simpa only [hcount, hwidth, hamp, hpulse] using hret
  · rw [hssf', hcount]
    omega

/-- Settles O50, by the run's invariant from `TRIG.RESET` on. -/
theorem trigPulseLastsWidthSamples : Obligations.TrigPulseLastsWidthSamples := by
  intro s n
  obtain ⟨-, ⟨r, hr, hssf, hwidth, hamp, -⟩, -⟩ := trigWritesOneField s 0 0
  obtain ⟨t, ht, hrun⟩ := execTimes_invariant (i := .trigProcess) (P := FiredAfter s.trig)
    ⟨hwidth, hamp, hssf⟩ (fun _ _ h => let ⟨v, hv, _, h'⟩ := h.exec_trigProcess; ⟨v, hv, h'⟩) n
  obtain ⟨u, hu, hret, hrun'⟩ := hrun.exec_trigProcess
  refine ⟨t, u, (execList_cons hr).trans ht, hu, ?_, hret⟩
  rw [hrun'.ssf]
  omega

/-! ## The silence before the first `TRIG.RESET` (R165, R170) -/

/-- What an operation can do to the counter: nothing, the -1 of `TRIG.RESET`, or one count of `TRIG.PROCESS`. -/
theorem exec_ssf_cases {i : Instr} {s t : State} (h : exec i s = .next t) :
    t.trig.ssf = s.trig.ssf ∨
    (i = .trigReset ∧ t.trig.ssf.toInt = -1) ∨
    (i = .trigProcess ∧ t.trig.ssf.toInt = min (s.trig.ssf.toInt + 1) Config.ssfMax) := by
  cases i with
  | trigProcess => cases h; exact .inr (.inr ⟨rfl, ssfTick_toInt s.trig.ssf⟩)
  | trigReset => cases h; exact .inr (.inl ⟨rfl, firedSsf_toInt⟩)
  | trigSetwidth | trigSetamp => cases h; exact .inl rfl
  | phProcess | phReset | phSetfreq | phSetdur | phRunning | phIsatend | phSetloop
  | oscProcess | oscReset | oscSetfreq | oscSetdur | oscRunning | oscIsatend | oscSetloop | oscSettype | oscSetwidth
  | envProcess | envReset | envSetattack | envSetdecay
  | slewProcess | slewSet | slewSetslew =>
    exact .inl (congrArg TrigUnit.ssf ((operationsStayInTheirUnit _ s t h).trig nofun))

/-- A property that every operation of a sequence keeps is kept by the sequence, where it completes. -/
theorem execList_keeps {P : State → Prop} {is : List Instr} {s t : State}
    (hexec : ∀ i ∈ is, ∀ s t, P s → exec i s = .next t → P t) (hs : P s) (h : execList is s = .next t) : P t := by
  induction is generalizing s with
  | nil => cases h; exact hs
  | cons i is ih =>
    obtain ⟨hi, his⟩ := List.forall_mem_cons.mp hexec
    obtain ⟨u, hu, hrest⟩ := execList_cons_next h
    exact ih his (hi s u hs hu) hrest

/-- A saturated counter leaves `SSF_MAX` by `TRIG.RESET` only (R166). -/
theorem exec_keeps_ssfMax {i : Instr} {s t : State} (hi : i ≠ .trigReset) (hs : s.trig.ssf.toInt = 2147483647)
    (h : exec i s = .next t) : t.trig.ssf.toInt = 2147483647 := by
  obtain hsame | ⟨hreset, -⟩ | ⟨-, hcount⟩ := exec_ssf_cases h
  · rw [hsame, hs]
  · exact absurd hreset hi
  · rw [hcount, hs]
    rfl

/-- At `SSF_MAX` the counter is below no width, so `TRIG.PROCESS` returns 0 (R166). -/
theorem exec_trigProcess_silent {s : State} (hs : s.trig.ssf.toInt = 2147483647) :
    ∃ t, exec .trigProcess s = .next t ∧ Spec.Returns t 0 := by
  obtain ⟨-, t, ht, -, hret, -⟩ := trigProcessCountsAndCompares s
  have hmax := s.trig.width.toInt_lt
  rw [if_neg (by omega)] at hret
  exact ⟨t, ht, hret⟩

/-- Settles O51: every operation of the sequence keeps the counter at `SSF_MAX`, where the unit is silent. -/
theorem trigSilentUntilFired : Obligations.TrigSilentUntilFired := by
  intro is s t hs hnot h
  have ht : t.trig.ssf.toInt = 2147483647 := execList_keeps (P := fun s => s.trig.ssf.toInt = 2147483647)
    (fun i hi _ _ => exec_keeps_ssfMax (ne_of_mem_of_not_mem hi hnot)) hs h
  exact ⟨ht, exec_trigProcess_silent ht⟩

end Sys2Proof.Machine
end

section
/-! PROOFS. The obligations of `44_slew.md`: `SLEW.PROCESS` and `SLEW.SET` (R182, R183) and a whole slew (R185). -/

namespace Sys2Proof.Machine

/-! ## The operations of `SLEW` (R181 to R183) -/

/-- The crossfade of a ramp value in range, in the terms of R181. -/
theorem lerp_eq_spec {a b i : Nat} (h : i ≤ 127) : lerp a b i = (Spec.lerp a b i : Nat) := by
  rw [lerp_natCast h, Nat.shiftRight_eq_div_pow, Nat.shiftRight_eq_div_pow]
  rfl

/-- The result of `SLEW.PROCESS` with a phase in range: the target when stopped, else the crossfade (R182). -/
theorem returns_slewValue (s : State) {u : SlewUnit} (h : u.ph.phase.toNat ≤ Spec.PM) :
    Spec.Returns (s.setRes (some (resPattern (slewValue u))))
      (if u.ph.delta.toNat = 0 then u.toLevel.toNat
        else Spec.lerp u.fromLevel.toNat u.toLevel.toNat (u.ph.phase.toNat / 2 ^ 24)) := by
  have hout : phasorOut u.ph = u.ph.phase.toNat / 2 ^ 24 := Nat.shiftRight_eq_div_pow _ _
  have hstopped : stopped u.ph = true ↔ u.ph.delta.toNat = 0 := decide_eq_true_iff
  rw [slewValue, ← hout]
  simp only [hstopped, lerp_eq_spec (phasorOut_le h)]
  split <;> exact congrArg some (resPattern_natCast _)

/-- A level is the same in the result port and in an 8-bit register (R12, R87). -/
theorem resPattern_level {v : Nat} (h : v ≤ 127) :
    resPattern v = (BitVec.ofInt 8 (v : Int)).setWidth 32 := by
  apply BitVec.eq_of_toNat_eq
  rw [resPattern_natCast, BitVec.toNat_setWidth, ofInt_level_toNat h, BitVec.toNat_ofNat]

/-- Settles O25: the value is a level, so the register and the result port hold the same. -/
theorem slewProcessInterpolatesOrSnaps : Obligations.SlewProcessInterpolatesOrSnaps := by
  intro s hs
  obtain ⟨v, hv, hle⟩ := slewValue_level hs.slewPhase hs.fromLevel hs.toLevel
  refine ⟨rfl, _, rfl, othersKept_slew _ _ _, returns_slewValue _ hs.slewPhase, ?_, advanceOneShot_phase _,
    rfl, rfl, rfl⟩
  simp only [State.setRes_res, State.setRes_slew, State.setSlew_slew, hv, resPattern_level hle]

/-- Settles O26, field by field of the update. -/
theorem slewSetRestartsFromLastOutput : Obligations.SlewSetRestartsFromLastOutput := fun _ x =>
  ⟨wordIs_add .slew .set ⟨rfl, rfl, septetArg_toNat x⟩ rfl,
    _, rfl, rfl, levelValue_toNat x, rfl, rfl, rfl, rfl, othersKept_slew _ _ _⟩

/-! ## A whole slew (R185) -/

/-- The ramp value of operation `n + 1` of a slew with the increment `d` (R110, R113). -/
def slewRamp (d n : Nat) : Nat := min (n * d) Spec.PM / 2 ^ 24

/-- The ramp value is at most 127 (R110). -/
theorem slewRamp_le (d n : Nat) : slewRamp d n ≤ 127 := by
  rw [slewRamp, PM_eq]
  omega

/-- The ramp never falls. -/
theorem slewRamp_mono (d : Nat) {m n : Nat} (h : m ≤ n) : slewRamp d m ≤ slewRamp d n :=
  Nat.div_le_div_right (min_le_min_right _ (Nat.mul_le_mul_right d h))

/-- The ramp stands at its last value from `n = ceil(0x7F000000 / d)` on (R185). -/
theorem slewRamp_terminal {d n : Nat} (hd : 0 < d) (h : Spec.ceilDiv 0x7F000000 d ≤ n) : slewRamp d n = 127 := by
  rw [ceilDiv_le_iff hd] at h
  rw [slewRamp, PM_eq]
  omega

/-- The crossfade at the last ramp value (R185). -/
theorem lerp_terminal (a x : Nat) : Spec.lerp a x 127 = x * 127 / 128 := by
  simp [Spec.lerp]

/-- The crossfade from level 0 leaves the target's product only (R181). -/
theorem lerp_zero (x i : Nat) : Spec.lerp 0 x i = x * i / 128 := by
  simp [Spec.lerp]

/-- The crossfade from level 0 is below its target at every ramp value (R185, C1). -/
theorem lerp_zero_lt {x i : Nat} (hx : 1 ≤ x) (hi : i ≤ 127) : Spec.lerp 0 x i < x := by
  rw [lerp_zero]
  have hxi : x * i ≤ x * 127 := Nat.mul_le_mul_left x hi
  omega

/-- The `SLEW` unit with the increment `d`, `n` operations after a ramp from level `a` to level `x` began. -/
structure SlewAfter (a x d n : Nat) (s : State) : Prop where
  fromLevel : s.slew.fromLevel.toNat = a
  toLevel : s.slew.toLevel.toNat = x
  delta : s.slew.ph.delta.toNat = d
  phase : s.slew.ph.phase.toNat = min (n * d) Spec.PM

/-- Every operation of the run completes, with the result of R185. -/
theorem SlewAfter.exec_slewProcess {a x d n : Nat} {s : State} (h : SlewAfter a x d n s) :
    ∃ t, exec .slewProcess s = .next t ∧ Spec.Returns t (if d = 0 then x else Spec.lerp a x (slewRamp d n)) ∧
      SlewAfter a x d (n + 1) t := by
  obtain ⟨rfl, rfl, rfl, hphase⟩ := h
  refine ⟨_, rfl, ?_, rfl, rfl, rfl, advanceOneShot_multiple rfl hphase⟩
  rw [slewRamp, ← hphase]
  exact returns_slewValue _ (hphase ▸ Nat.min_le_right _ _)

/-- `SLEW.SET` begins a run at the last output, and `n` `SLEW.PROCESS` operations go on with it. -/
theorem execList_slew (s : State) (x : Septet) (n : Nat) :
    ∃ t, execList (.slewSet x :: List.replicate n .slewProcess) s = .next t ∧
      SlewAfter s.slew.lastVal.toNat x.toNat s.slew.ph.delta.toNat n t := by
  obtain ⟨-, r, hr, hfrom, hto, hphase, hdelta, -⟩ := slewSetRestartsFromLastOutput s x
  have hstart : SlewAfter s.slew.lastVal.toNat x.toNat s.slew.ph.delta.toNat 0 r :=
    ⟨by rw [hfrom], hto, by rw [hdelta], by rw [hphase, Nat.zero_mul]; rfl⟩
  obtain ⟨t, ht, hrun⟩ := execTimes_invariant hstart
    (fun _ _ h => let ⟨u, hu, _, h'⟩ := h.exec_slewProcess; ⟨u, hu, h'⟩) n
  exact ⟨t, (execList_cons hr).trans ht, hrun⟩

/-- Settles O54, by the run's invariant. -/
theorem slewRun : Obligations.SlewRun := by
  intro s x n
  obtain ⟨t, ht, hrun⟩ := execList_slew s x n
  obtain ⟨u, hu, hret, -⟩ := hrun.exec_slewProcess
  refine ⟨t, u, ht, hu, fun hd => ?_, fun hd => ?_⟩
  · rw [if_neg (Nat.ne_of_gt hd)] at hret
    refine ⟨hret, fun hn => ?_⟩
    rwa [slewRamp_terminal hd hn, lerp_terminal] at hret
  · rwa [if_pos hd] at hret

/-- Settles O55: the ramp never falls and ends at 127, which the crossfade divides by 128. -/
theorem slewFromZeroRisesBelowTarget : Obligations.SlewFromZeroRisesBelowTarget := by
  intro s x n hzero hd hx
  obtain ⟨t, ht, hrun⟩ := execList_slew s x n
  obtain ⟨u, hu, hp, hrun'⟩ := hrun.exec_slewProcess
  obtain ⟨v, hv, hq, -⟩ := hrun'.exec_slewProcess
  rw [hzero, if_neg (Nat.ne_of_gt hd)] at hp hq
  have hle : Spec.lerp 0 x.toNat (slewRamp s.slew.ph.delta.toNat n) ≤
      Spec.lerp 0 x.toNat (slewRamp s.slew.ph.delta.toNat (n + 1)) := by
    rw [lerp_zero, lerp_zero]
    exact Nat.div_le_div_right (Nat.mul_le_mul_left _ (slewRamp_mono _ (Nat.le_succ n)))
  have hlt := lerp_zero_lt hx (slewRamp_le s.slew.ph.delta.toNat (n + 1))
  have hxlt := x.isLt
  refine ⟨t, u, v, _, _, ht, hu, hv, hp, hq, ?_⟩
  rw [BitVec.toNat_ofNat, BitVec.toNat_ofNat]
  omega

end Sys2Proof.Machine
end

section
/-! PROOFS. The obligations of `60_exceptions.md`: which operations complete (R204) and which are refused (R207), from
the cases of a meaning: a reserved operand (R88), the overwrap of a looping `PH` (R114), and the rest. -/

namespace Sys2Proof.Machine

/-- The tick of a looping `PH` that R114 leaves UNSPECIFIED, in the words of the statements. -/
def Overwraps (i : Instr) (s : State) : Prop :=
  i = .phProcess ∧ s.ph.loop = true ∧ 2 * Spec.PM < s.ph.phase.toNat + s.ph.delta.toNat

/-- An overwrap is refused by its name (R114, R207). -/
theorem Overwraps.exec_refused {i : Instr} {s : State} (h : Overwraps i s) : exec i s = .refused .phOverwrap := by
  obtain ⟨rfl, hover⟩ := h
  exact exec_phProcess_overwrap fun hs => (phTickSpecified_iff _ _).1 hs hover

/-- A term that is not well-formed has a frequency above the limit, and is refused as a reserved operand (R88). -/
theorem exec_of_not_wellFormed {i : Instr} (h : i.wellFormed = false) (s : State) :
    exec i s = .refused (.reserved .operand) := by
  cases i with
  | phSetfreq => exact exec_phSetfreq_reserved (ne_true_of_eq_false h)
  | oscSetfreq => exact exec_oscSetfreq_reserved (ne_true_of_eq_false h)
  | phProcess | phReset | phSetdur | phRunning | phIsatend | phSetloop
  | oscProcess | oscReset | oscSetdur | oscRunning | oscIsatend | oscSetloop | oscSettype | oscSetwidth
  | envProcess | envReset | envSetattack | envSetdecay
  | trigProcess | trigReset | trigSetwidth | trigSetamp
  | slewProcess | slewSet | slewSetslew => cases h

/-- Every other operation completes (R204). -/
theorem exec_completes {i : Instr} {s : State} (hwf : i.wellFormed = true) (hover : ¬ Overwraps i s) :
    ∃ t, exec i s = .next t := by
  cases i with
  | phProcess => exact ⟨_, exec_phProcess_specified ((phTickSpecified_iff _ _).2 fun h => hover ⟨rfl, h⟩)⟩
  | phSetfreq => exact ⟨_, exec_phSetfreq_legal hwf⟩
  | oscSetfreq => exact ⟨_, exec_oscSetfreq_legal hwf⟩
  | envProcess =>
    by_cases he : isAtEnd s.env.attack = true
    · exact ⟨_, exec_envProcess_atEnd he⟩
    · exact ⟨_, exec_envProcess_attacking he⟩
  | phReset | phSetdur | phRunning | phIsatend | phSetloop
  | oscProcess | oscReset | oscSetdur | oscRunning | oscIsatend | oscSetloop | oscSettype | oscSetwidth
  | envReset | envSetattack | envSetdecay
  | trigProcess | trigReset | trigSetwidth | trigSetamp
  | slewProcess | slewSet | slewSetslew => exact ⟨_, rfl⟩

/-- Settles O41: an operation that completes keeps every other unit. -/
theorem everyOperationCompletes : Obligations.EveryOperationCompletes := by
  intro i s hwf hover
  obtain ⟨t, ht⟩ := exec_completes hwf hover
  exact ⟨t, ht, operationsStayInTheirUnit i s t ht⟩

/-- Settles O42: the two grounds refuse by their names, and without them the operation completes. -/
theorem refusalsAreExactlyTheUnspecified : Obligations.RefusalsAreExactlyTheUnspecified := by
  intro i s r
  constructor
  · intro h
    cases hwf : i.wellFormed with
    | false =>
      rw [exec_of_not_wellFormed hwf, Host.Outcome.refused.injEq] at h
      exact .inl ⟨rfl, h.symm⟩
    | true =>
      by_cases hover : Overwraps i s
      · rw [hover.exec_refused, Host.Outcome.refused.injEq] at h
        obtain ⟨hi, hloop, hsum⟩ := hover
        exact .inr ⟨hi, hloop, hsum, h.symm⟩
      · obtain ⟨t, ht⟩ := exec_completes hwf hover
        exact nomatch ht.symm.trans h
  · rintro (⟨hwf, rfl⟩ | ⟨hi, hloop, hsum, rfl⟩)
    · exact exec_of_not_wellFormed hwf s
    · exact Overwraps.exec_refused ⟨hi, hloop, hsum⟩

end Sys2Proof.Machine
end

section
/-! PROOFS. The obligations of `70_reset_and_hazards.md`: hardware reset among the driver's events (R230), the counter
that only counting brings back (R232), the units straight out of reset (R237), the order of setters (R238) and the
driver that is never refused (R244). -/

namespace Sys2Proof.Machine

/-! ## The driver that keeps R244 -/

/-- What an operation can do to the increment of `PH`: nothing, or what its two rate setters write. -/
theorem exec_phDelta_cases {i : Instr} {s t : State} (h : exec i s = .next t) :
    t.ph.delta = s.ph.delta ∨
    (∃ freq, i = .phSetfreq freq ∧ freqLegal freq = true ∧ t.ph.delta = freqDelta freq) ∨
    (∃ ms, i = .phSetdur ms ∧ t.ph.delta = durDelta ms) := by
  cases i with
  | phSetfreq freq =>
    obtain ⟨hf, rfl⟩ := exec_phSetfreq_next h
    exact .inr (.inl ⟨freq, rfl, hf, rfl⟩)
  | phSetdur ms => cases h; exact .inr (.inr ⟨ms, rfl, rfl⟩)
  | phProcess => obtain ⟨-, rfl⟩ := exec_phProcess_next h; exact .inl rfl
  | phReset | phRunning | phIsatend | phSetloop => cases h; exact .inl rfl
  | oscProcess | oscReset | oscSetfreq | oscSetdur | oscRunning | oscIsatend | oscSetloop | oscSettype | oscSetwidth
  | envProcess | envReset | envSetattack | envSetdecay
  | trigProcess | trigReset | trigSetwidth | trigSetamp
  | slewProcess | slewSet | slewSetslew =>
    have hph : t.ph = s.ph := (operationsStayInTheirUnit _ s t h).ph nofun
    exact .inl (by rw [hph])

/-- An operation that sets no `PH` frequency above 40000 keeps the increment of `PH` at most `PHASE_MAX` (R244). -/
theorem exec_keeps_phDelta_le {i : Instr} {s t : State} (hlimit : ∀ freq, i = .phSetfreq freq → freq.toNat ≤ 40000)
    (hs : s.ph.delta.toNat ≤ Spec.PM) (h : exec i s = .next t) : t.ph.delta.toNat ≤ Spec.PM := by
  obtain hsame | ⟨freq, hi, hlegal, hdelta⟩ | ⟨ms, -, hdelta⟩ := exec_phDelta_cases h
  · rwa [hsame]
  · have hfreq := hlimit freq hi
    rw [hdelta, freqDelta_toNat (of_decide_eq_true hlegal), sampleDelta_eq, PM_eq]
    omega
  · have hdur := (isDurDelta_durDelta ms).le
    rw [hdelta, PM_eq]
    omega

/-- A word that keeps the limit decodes to an operation that sets no `PH` frequency above 40000. -/
theorem decode_of_keepsLimit {w : OpWord} (h : (PortEvent.opw w).keepsLimit = true) :
    ∃ i, decode w = .ok i ∧ ∀ freq, i = .phSetfreq freq → freq.toNat ≤ 40000 := by
  simp only [PortEvent.keepsLimit] at h
  split at h
  · rename_i freq hd
    refine ⟨_, hd, fun freq' heq => ?_⟩
    cases heq
    exact of_decide_eq_true h
  · rename_i i hne hd
    exact ⟨i, hd, fun freq heq => absurd heq (hne freq)⟩
  · cases h

/-- The invariant of a run under R244: legal values, an increment of `PH` that one subtraction can wrap, and a driver
that keeps it so. -/
structure State.Limited (s : State) : Prop where
  inRange : s.InRange
  phDelta : s.ph.delta.toNat ≤ Spec.PM
  driver : ∀ e ∈ s.port, e.keepsLimit = true

/-- In range and with an increment of at most `PHASE_MAX`, no tick overwraps. -/
theorem State.Limited.not_overwraps {s : State} (hs : s.Limited) (i : Instr) : ¬ Overwraps i s := by
  rintro ⟨-, -, hover⟩
  have hphase : s.ph.phase.toNat ≤ Spec.PM := hs.inRange.phPhase
  have hdelta := hs.phDelta
  omega

/-- A well-formed operation that sets no `PH` frequency above 40000 completes and keeps the invariant. -/
theorem State.Limited.exec_limited {i : Instr} {s : State} (hs : s.Limited) (hwf : i.wellFormed = true)
    (hlimit : ∀ freq, i = .phSetfreq freq → freq.toNat ≤ 40000) :
    ∃ t, exec i s = .next t ∧ t.Limited := by
  obtain ⟨t, ht⟩ := exec_completes hwf (hs.not_overwraps i)
  refine ⟨t, ht, exec_keeps_inRange hs.inRange ht, exec_keeps_phDelta_le hlimit hs.phDelta ht, ?_⟩
  rw [(operationsStayInTheirUnit i s t ht).port]
  exact hs.driver

/-- Every step completes and keeps the invariant, by the oldest event. -/
theorem State.Limited.step_limited {s : State} (hs : s.Limited) : ∃ t, step s = .next t ∧ t.Limited := by
  cases hp : s.port with
  | nil => exact ⟨s, step_idle hp, hs⟩
  | cons e es =>
    obtain ⟨he, hes⟩ := List.forall_mem_cons.mp (hp ▸ hs.driver)
    rw [step_event hp]
    cases e with
    | hwReset => exact ⟨_, rfl, { legalValuesHoldAtReset with }, Nat.zero_le _, hes⟩
    | opwUnderReset => cases he
    | opw w =>
      obtain ⟨i, hd, hlimit⟩ := decode_of_keepsLimit he
      have hlater : (s.setPort es).Limited := ⟨{ hs.inRange with }, hs.phDelta, hes⟩
      rw [performEvent, performWord, hd]
      exact hlater.exec_limited (encode_of_decode hd).2 hlimit

/-- Where every step from a state with a property completes in such a state, so does a run of any length. -/
theorem core_run_invariant {P : State → Prop} (hstep : ∀ s, P s → ∃ t, step s = .next t ∧ P t) {s : State} (hs : P s)
    (n : Nat) : ∃ t, Host.Core.run core n s = .next t ∧ P t := by
  induction n generalizing s with
  | zero => exact ⟨s, rfl, hs⟩
  | succ n ih =>
    obtain ⟨t, ht, hP⟩ := hstep s hs
    rw [core_run_succ n ht]
    exact ih hP

/-- Settles O43, by the invariant of the limited driver. -/
theorem limitedDriverIsNeverRefused : Obligations.LimitedDriverIsNeverRefused := by
  intro s n hrange hdelta hdriver
  obtain ⟨t, ht, hlimited⟩ := core_run_invariant (fun _ => State.Limited.step_limited) ⟨hrange, hdelta, hdriver⟩ n
  exact ⟨t, ht, hlimited.inRange, hlimited.phDelta⟩

/-! ## Only counting restores the counter (R232) -/

/-- One operation raises the counter by at most one, and only if it is `TRIG.PROCESS`: in range, `TRIG.RESET` does not
raise it (R23). -/
theorem exec_ssf_le {i : Instr} {s t : State} (hs : s.InRange) (h : exec i s = .next t) :
    t.trig.ssf.toInt ≤ s.trig.ssf.toInt + ([i].count .trigProcess : Nat) := by
  have hssf := hs.ssf
  obtain hsame | ⟨-, hfired⟩ | ⟨rfl, hcount⟩ := exec_ssf_cases h
  · rw [hsame]
    omega
  · omega
  · rw [hcount, List.count_singleton_self]
    omega

/-- A sequence raises the counter by at most the number of its `TRIG.PROCESS` operations. -/
theorem execList_ssf_le {is : List Instr} {s t : State} (hs : s.InRange) (h : execList is s = .next t) :
    t.trig.ssf.toInt ≤ s.trig.ssf.toInt + (is.count .trigProcess : Nat) := by
  induction is generalizing s with
  | nil => cases h; simp
  | cons i is ih =>
    obtain ⟨u, hu, hrest⟩ := execList_cons_next h
    have hfirst := exec_ssf_le hs hu
    have hlater := ih (exec_keeps_inRange hs hu) hrest
    rw [← List.singleton_append, List.count_append]
    omega

/-- Settles O52: what brings the counter to `SSF_MAX` is the number of counts. -/
theorem onlyCountingRestoresSsfMax : Obligations.OnlyCountingRestoresSsfMax := by
  intro is s t hs h hmax
  have hle := execList_ssf_le hs h
  omega

/-! ## Setters of different fields (R238) -/

/-- `s` with the field of the setter `i` written, where `d` is the increment if the field is one. Any other operation is
no setter, and writes none here. -/
def State.writeField (i : Instr) (d : Word) (s : State) : State :=
  match i with
  | .phSetfreq _ | .phSetdur _ => s.withRate .ph d
  | .phSetloop b => s.setPh { s.ph with loop := b }
  | .oscSetfreq _ | .oscSetdur _ => s.withRate .osc d
  | .oscSetloop b => s.setOsc { s.osc with loop := b }
  | .oscSettype v => s.setOsc { s.osc with type := v }
  | .oscSetwidth v => s.setOsc { s.osc with width := v }
  | .envSetattack _ => s.setEnv { s.env with attack := s.env.attack.setDelta d }
  | .envSetdecay _ => s.setEnv { s.env with decay := s.env.decay.setDelta d }
  | .trigSetwidth n => s.setTrig { s.trig with width := n }
  | .trigSetamp a => s.setTrig { s.trig with amp := a }
  | .slewSet x => s.setSlew
      { s.slew with fromLevel := s.slew.lastVal, toLevel := levelValue x, ph := resetPhase s.slew.ph }
  | .slewSetslew _ => s.setSlew { s.slew with ph := s.slew.ph.setDelta d }
  | .phProcess | .phReset | .phRunning | .phIsatend => s
  | .oscProcess | .oscReset | .oscRunning | .oscIsatend => s
  | .envProcess | .envReset | .trigProcess | .trigReset | .slewProcess => s

/-- A well-formed setter completes in every state: it writes its field and returns none. -/
theorem exec_setter {i : Instr} (h : isSetter i = true) (hwf : i.wellFormed = true) :
    ∃ d, ∀ s, exec i s = .next ((s.writeField i d).setRes none) := by
  cases i with
  | phSetfreq freq => exact ⟨freqDelta freq, fun _ => exec_phSetfreq_legal hwf⟩
  | oscSetfreq freq => exact ⟨freqDelta freq, fun _ => exec_oscSetfreq_legal hwf⟩
  | phSetdur ms | oscSetdur ms | envSetattack ms | envSetdecay ms | slewSetslew ms =>
    exact ⟨durDelta ms, fun _ => rfl⟩
  | phSetloop | oscSetloop | oscSettype | oscSetwidth | trigSetwidth | trigSetamp | slewSet =>
    exact ⟨0, fun _ => rfl⟩
  | phProcess | phReset | phRunning | phIsatend | oscProcess | oscReset | oscRunning | oscIsatend
  | envProcess | envReset | trigProcess | trigReset | slewProcess => cases h

/-- A setter does not see the result port. -/
theorem State.writeField_setRes (i : Instr) (d : Word) (s : State) (r : Option Word) :
    (s.setRes r).writeField i d = (s.writeField i d).setRes r := by
  cases i <;> rfl

/-- Different fields are written in either order; `SLEW.SET` reads `lastVal`, which no setter writes. -/
theorem State.writeField_comm {i j : Instr} (h : sameField i j = false) (d e : Word) (s : State) :
    (s.writeField i d).writeField j e = (s.writeField j e).writeField i d := by
  cases i with
  | phProcess | phReset | phRunning | phIsatend | oscProcess | oscReset | oscRunning | oscIsatend
  | envProcess | envReset | trigProcess | trigReset | slewProcess => rfl
  | phSetfreq | phSetdur | phSetloop | oscSetfreq | oscSetdur | oscSetloop | oscSettype | oscSetwidth
  | envSetattack | envSetdecay | trigSetwidth | trigSetamp | slewSet | slewSetslew =>
    -- `h` excludes the setters of the same field; any other `j` leaves that field as it is.
    cases j <;> cases h <;> rfl

/-- Two setters in order write their two fields in order. -/
theorem execList_setters {i j : Instr} {d e : Word} (hi : ∀ s, exec i s = .next ((s.writeField i d).setRes none))
    (hj : ∀ s, exec j s = .next ((s.writeField j e).setRes none)) (s : State) :
    execList [i, j] s = .next (((s.writeField i d).writeField j e).setRes none) := by
  rw [execList_cons (hi s), execList_singleton, hj, State.writeField_setRes, State.setRes_setRes]

/-- Settles O36: each order writes the two fields, and they are different. -/
theorem settersOfDifferentFieldsCommute : Obligations.SettersOfDifferentFieldsCommute := by
  intro i j s hi hj hne hwi hwj
  obtain ⟨d, hd⟩ := exec_setter hi hwi
  obtain ⟨e, he⟩ := exec_setter hj hwj
  refine ⟨_, execList_setters hd he s, ?_⟩
  rw [execList_setters he hd, State.writeField_comm hne]

/-! ## Hardware reset among the driver's events (R230) -/

/-- Settles O10: the step takes the oldest event, and hardware reset keeps the ones after it. -/
theorem hardwareResetIsOneOrderedStep : Obligations.HardwareResetIsOneOrderedStep := fun _ _ =>
  ⟨fun hport => step_event hport, fun _ hport => step_event hport⟩

/-! ## Straight out of reset (R237) -/

/-- An operation that leaves its unit as it was answers the same however often it was performed before. -/
theorem exec_after_execTimes {i : Instr} {s t : State} (h : exec i s = .next t) (ha : AgreeOn i.unit t s) (n : Nat) :
    ∃ u, execTimes i n s = .next u ∧ exec i u = .next t :=
  execTimes_invariant (P := fun _ u => exec i u = .next t) h (fun _ _ hu => ⟨t, hu, exec_repeat h ha⟩) n

/-- Out of reset the phasors of `PH`, `OSC` and `SLEW` are stopped at 0 and the counter of `TRIG` is saturated: their
PROCESS returns 0 and writes nothing new. -/
theorem exec_process_reset {i : Instr} (h : i ∈ [Instr.phProcess, .oscProcess, .trigProcess, .slewProcess]) :
    exec i State.reset = .next (State.reset.setRes (some 0)) := by
  simp only [List.mem_cons, List.not_mem_nil, or_false] at h
  obtain rfl | rfl | rfl | rfl := h <;> rfl

/-- The attack of the reset state takes 201 operations (R156). -/
theorem resetAttack_ceilDiv : Spec.ceilDiv Spec.PM 10737400 = 201 := by decide

/-- Settles O53: four units stay as reset leaves them, and `ENV` runs its envelope with the increments of R47. -/
theorem processOutOfReset : Obligations.ProcessOutOfReset := by
  intro n
  constructor
  · intro i hi
    obtain ⟨t, ht, hu⟩ := exec_after_execTimes (exec_process_reset hi) (agreeOn_setRes _ _ _) n
    exact ⟨t, _, ht, hu, rfl⟩
  · obtain ⟨t, u, ht, hu, hattack, hdecay, -⟩ :=
      envelopeRun State.reset n 10737400 357913 rfl rfl rfl rfl (by decide) (by decide)
    rw [resetAttack_ceilDiv] at hattack hdecay
    refine ⟨t, u, ht, hu, ?_⟩
    split
    · exact hattack ‹_›
    · exact hdecay (Nat.le_of_not_lt ‹_›)

end Sys2Proof.Machine
end

section
/-! PROOFS. The grounds on which a word is reserved (`30_encoding.md` R88), and the obligation on the encoding vectors
of `95_test_vectors.md`. -/

namespace Sys2Proof

/-! ## The grounds of R88, in the order of R91 -/

/-- The `UNIT` codes 5 to 15 are not assigned (R82). -/
theorem decodeUnit_unassigned : ∀ c : Code, 5 ≤ c.toNat → decodeUnit c = none := by decide

/-- The `OP` codes 14 and 15 are not assigned (R83). -/
theorem decodeOp_unassigned : ∀ c : Code, 14 ≤ c.toNat → decodeOp c = none := by decide

theorem decode_reserved_unit {w : OpWord} (h : 5 ≤ (unitField w).toNat) : decode w = .reserved .unit := by
  rw [decode, decodeUnit_unassigned _ h]

theorem decode_reserved_op {w : OpWord} {u : UnitId} (hu : u.code = unitField w) (h : 14 ≤ (opField w).toNat) :
    decode w = .reserved .op := by
  rw [decode, ← hu, decodeUnit_code, decodeOp_unassigned _ h]

/-- The look-up of a pair without a row does not depend on the operand. -/
theorem decodeRow_reserved_pair {u : UnitId} {op : OpName} (h : ∀ r ∈ opTable, ¬(r.unit = u ∧ r.op = op))
    (arg : Word) : decodeRow u op arg = .reserved .pair := by
  unfold decodeRow
  split
  case h_28 => rfl
  all_goals exact absurd h (by decide)

theorem decode_reserved_pair {w : OpWord} {u : UnitId} {op : OpName} (hu : u.code = unitField w)
    (hop : op.code = opField w) (h : ∀ r ∈ opTable, ¬(r.unit = u ∧ r.op = op)) : decode w = .reserved .pair := by
  rw [decode_of_fields hu hop, decodeRow_reserved_pair h]

theorem RowAnswers.eq_reserved {u : UnitId} {op : OpName} {top : Nat} {arg : Word} {d : Decoded}
    (h : RowAnswers u op top arg d) (hgt : top < arg.toNat) : d = .reserved .operand := by
  cases h with
  | ok hle _ => exact absurd hle (Nat.not_le_of_lt hgt)
  | reserved _ => rfl

/-- An operand above the greatest legal one of its row is reserved. -/
theorem decode_reserved_operand {w : OpWord} {r : OpRow} (hr : r ∈ opTable) (hu : r.unit.code = unitField w)
    (hop : r.op.code = opField w) (hgt : r.top < (argField w).toNat) : decode w = .reserved .operand := by
  rw [decode_of_fields hu hop]
  exact (decodeRow_answers _ hr).eq_reserved hgt

end Sys2Proof

namespace Sys2Proof.Machine

/-! ## The encoding vectors -/

/-- A word written out in digits decodes to the well-formed operation it is the word of (R91). -/
theorem decode_of_encode_eq {w : OpWord} {i : Instr} (hw : encode i = w) (hwf : i.wellFormed = true) :
    decode w = .ok i :=
  hw ▸ decode_encode hwf

/-- Settles O8: six vectors are the words of their operations, and the other four meet one ground of R88 each. -/
theorem sampleWordsDecode : Obligations.SampleWordsDecode := by
  refine ⟨?x2, ?x5, ?x12, ?x16, ?x21, ?x24, ?x4, ?x26, ?x27, ?x29⟩
  case x2 | x5 | x12 | x16 | x21 | x24 => exact decode_of_encode_eq (by decide) (by decide)
  case x4 => exact decode_reserved_operand (r := phRows[2]) (by decide) (by decide) (by decide) (by decide)
  case x26 => exact decode_reserved_pair (u := .slew) (op := .reset) (by decide) (by decide) (by decide)
  case x27 => exact decode_reserved_unit (by decide)
  case x29 => exact decode_reserved_op (u := .ph) (by decide) (by decide)

end Sys2Proof.Machine
end
